-- ==== Sys2Proof/Config.lean ====
section
/-! DEFINITION. What one build of the seng440 Montgomery engine fixes (00_scope.md R8 to R10), and the one free
value of the machine (93_implementation_defined.md U1). -/

namespace Sys2Proof

/-- Whether a width is a legal build: "It admits any integer W ≥ 8" (00_scope.md R8). The 2W-bit intermediate of
41_modular_exponentiation.md R122 is part of the datapath of every build of the model, so WIDTH_UNSUPPORTED never
arises at run time (60_exceptions.md R153). -/
def Config.buildable (W : Nat) : Bool := decide (8 ≤ W)

/-- The operand width of the machine `Sys2Proof.core`: "This hardware takes W = 32 by default" (00_scope.md R8).
The block itself (`Machine.Block W`) is defined for every W; log entry 2. -/
abbrev Config.W : Nat := 32

/-- A width that is not a legal build is refused at elaboration (60_exceptions.md R153): with a width below 8 this
theorem, and so the package, does not elaborate. -/
theorem Config.W_buildable : Config.buildable Config.W = true := by decide

/-- The n-th free W-bit value: RESULT of a MONMUL whose operands lie outside the MonMul contract is "an arbitrary
W-bit value (a draw)" (40_montgomery_multiply.md R97; 93_implementation_defined.md U1). It has no body: nothing can
be proved of its value. Log entry 1. -/
opaque Config.freeWord (W : Nat) (n : Nat) : BitVec W

/-- The order of the bytes of a register on a narrower or byte-addressed system bus: the OPEN parameter
`BUS_BYTE_ORDER` of 00_scope.md R10. No rule of the block reads it. Log entry 15. -/
inductive Config.BusByteOrder where
  | leastSignificantFirst
  | mostSignificantFirst
deriving DecidableEq, Repr

/-- The three OPEN platform parameters of 00_scope.md R10, which "a model takes … as arguments". All of them live
outside the block. Log entry 15. -/
structure Config.Platform where
  /-- `BASE_ADDR`: where the register block sits in a system address space. -/
  baseAddr     : Nat
  /-- `REG_STRIDE`: the address distance between consecutive register indices. -/
  regStride    : Nat
  /-- `BUS_BYTE_ORDER`. -/
  busByteOrder : Config.BusByteOrder
deriving DecidableEq, Repr

/-- Where a platform places register index i: "`BASE_ADDR + i·REG_STRIDE`" (20_memory.md R57). -/
def Config.Platform.registerAddress (p : Config.Platform) (i : BitVec 3) : Nat :=
  p.baseAddr + i.toNat * p.regStride

end Sys2Proof
end

