-- ==== Sys2Proof/Word.lean ====
section
/-! DEFINITION. The word type and the widths that follow from W (00_scope.md R9). -/

namespace Sys2Proof

/-- A register of the machine `Sys2Proof.core`: W bits (00_scope.md R9). -/
abbrev Word := BitVec Config.W

/-- The width of the bit counter i: ⌈log2(W+1)⌉ bits (00_scope.md R9). For W ≥ 1 this is ⌊log2 W⌋ + 1. -/
abbrev counterWidth (W : Nat) : Nat := Nat.log2 W + 1

end Sys2Proof
end

