-- ==== Sys2Proof/Syntax.lean ====
section
/-! DEFINITION. The instructions: one constructor for each row of spec/opcode_table.json. -/

namespace Sys2Proof

/-- A CTRL word read as a command (30_encoding.md R71, R73). The rows have no operand fields: the operands of a
command are the operand registers at accept (30_encoding.md R72), and the reserved bits never change the result of
decoding (30_encoding.md R73). Log entry 18. -/
inductive Instr where
  /-- START = 1, OP = 01: the Montgomery product (40_montgomery_multiply.md R99). -/
  | monmul
  /-- START = 1, OP = 10: modular exponentiation (41_modular_exponentiation.md R128). -/
  | modexp
  /-- START = 1, OP = 00: reserved, completes with INVALID_COMMAND (60_exceptions.md R154). -/
  | reservedOp00
  /-- START = 1, OP = 11: reserved, completes with INVALID_COMMAND (60_exceptions.md R154). -/
  | reservedOp11
  /-- START = 0: no command (10_state.md R37; 30_encoding.md R73). -/
  | nocmd
deriving DecidableEq, Repr

end Sys2Proof
end

