-- ==== Sys2Proof/WellFormed.lean ====
section
/-! DEFINITION. Which terms are well formed: instructions, CTRL words as software should write them, and the
transaction records of host steps. -/

namespace Sys2Proof

/-- Every instruction is well formed: no command word has an operand field (30_encoding.md R70, R72), and no
written CTRL value is illegal (10_state.md R26). -/
def Instr.wellFormed (i : Instr) : Bool :=
  match i with
  | .monmul => true
  | .modexp => true
  | .reservedOp00 => true
  | .reservedOp11 => true
  | .nocmd => true

/-- A CTRL value as software should write it: "Software should write 0" to bits [W-1:3] (10_state.md R26;
30_encoding.md R74). The block accepts every other value too. -/
def ctrlCanonical {W : Nat} (v : BitVec W) : Bool := decide (v.toNat < 8)

/-- The transaction record of one host step: kind, index and data (30_encoding.md R76). -/
inductive Record where
  /-- `W <idx> <v>` -/
  | write (idx v : Nat)
  /-- `R <idx>` -/
  | read (idx : Nat)
deriving DecidableEq, Repr

/-- A record names a host step of a block of width W: its index is one of 0 to 7 (20_memory.md R50) and its data is
a W-bit value (20_memory.md R51, R55). -/
def Record.wellFormed (W : Nat) (r : Record) : Bool :=
  match r with
  | .write idx v => decide (idx < 8) && decide (v < 2 ^ W)
  | .read idx => decide (idx < 8)

end Sys2Proof
end

