-- ==== Sys2Proof/Decode.lean ====
section
/-! DEFINITION. The decoder and the encoder of the CTRL word (30_encoding.md R70 to R75). -/

namespace Sys2Proof

/-- START, bit [0] of a CTRL word (10_state.md R26). -/
def ctrlStart {W : Nat} (v : BitVec W) : Bool := v.getLsbD 0

/-- OP, bits [2:1] of a CTRL word (10_state.md R26). -/
def ctrlOp {W : Nat} (v : BitVec W) : BitVec 2 := v.extractLsb' 1 2

/-- The command an OP value selects once START = 1 (30_encoding.md R71). -/
def commandOfOp (op : BitVec 2) : Instr :=
  match op.getLsbD 1, op.getLsbD 0 with
  | false, false => .reservedOp00
  | false, true  => .monmul
  | true,  false => .modexp
  | true,  true  => .reservedOp11

/-- Decoding of a CTRL value, total over all 2^W of them (30_encoding.md R73). -/
def decode {W : Nat} (v : BitVec W) : Instr :=
  if ctrlStart v then commandOfOp (ctrlOp v) else .nocmd

/-- Why a number is not a CTRL value. -/
inductive DecodeReject where
  /-- The number does not fit one W-bit register: "Every access is exactly W bits wide" (20_memory.md R55). -/
  | widerThanRegister
deriving DecidableEq, Repr

/-- Decoding of a number written to CTRL; the one thing rejected, by name, is a number of more than W bits. -/
def decodeNat (W : Nat) (n : Nat) : Except DecodeReject Instr :=
  if n < 2 ^ W then .ok (decode (BitVec.ofNat W n)) else .error .widerThanRegister

/-- The instruction the decoder reads from a word numbered as spec/opcode_table.json numbers it, the bits above
`nbits` zero. The block has no bytes and no memory (20_memory.md R53): the word is the value written to CTRL. Log entry 16. -/
def decodeTableWord (nbits w : Nat) : Option Instr :=
  match decodeNat Config.W (w % 2 ^ nbits) with
  | .ok i => some i
  | .error _ => none

/-- The `match` column of spec/opcode_table.json. -/
def ctrlMatch (i : Instr) : Nat :=
  match i with
  | .monmul => 0x3
  | .modexp => 0x5
  | .reservedOp00 => 0x1
  | .reservedOp11 => 0x7
  | .nocmd => 0x0

/-- The `mask` column of spec/opcode_table.json: the bits the decoder looks at. -/
def ctrlMask (i : Instr) : Nat :=
  match i with
  | .monmul => 0x7
  | .modexp => 0x7
  | .reservedOp00 => 0x7
  | .reservedOp11 => 0x7
  | .nocmd => 0x1

/-- The canonical CTRL value of an instruction, its ignored bits written as 0 (30_encoding.md R71, R74). -/
def encode (W : Nat) (i : Instr) : BitVec W := BitVec.ofNat W (ctrlMatch i)

end Sys2Proof
end

