-- ==== Sys2Proof/Machine/State.lean ====
section
/-! DEFINITION. The state of the machine, as plain data: the block (10_state.md R21 to R36, W its width), and beside
it the model's own fields (the host's program, the order of turns, what reads returned, the free-value counter). -/

namespace Sys2Proof.Machine

/-- The eight register slots (10_state.md R21). -/
inductive Slot where
  | ctrl | status | opa | opb | mod | bitw | result | slot7
deriving DecidableEq, Repr

/-- The engine's position inside a command (10_state.md R36). -/
inductive Phase where
  | idle | check | param | reduce | convIn | convOne | loopMul | loopSqr | convOut | mmIter | mmFinal
deriving DecidableEq, Repr

/-- Which phase a MonMul returns T to: "return T to the caller phase" (40_montgomery_multiply.md R103). `monmul` is
the MONMUL command itself; the others are the phases of 41_modular_exponentiation.md R135. Log entry 8. -/
inductive Caller where
  | monmul | convIn | convOne | loopMul | loopSqr | convOut
deriving DecidableEq, Repr

/-- An error a command can end with (60_exceptions.md R151 to R155). WIDTH_UNSUPPORTED is no run-time error
(60_exceptions.md R153). -/
inductive CommandError where
  | invalidModulus | invalidCommand | invalidBitwidth
deriving DecidableEq, Repr

/-- How a command ends: `complete_ok(z)` or `raise Error(c)` (10_state.md R38). -/
inductive Completion (W : Nat) where
  | ok (z : BitVec W)
  | error (e : CommandError)
deriving DecidableEq, Repr

/-- The latched copy `L` of one command (10_state.md R34). -/
structure Latch (W : Nat) where
  /-- `L.OP` -/
  op : BitVec 2
  /-- `L.A` -/
  A  : BitVec W
  /-- `L.B` -/
  B  : BitVec W
  /-- `L.M` -/
  M  : BitVec W
  /-- `L.m` -/
  m  : BitVec W
deriving DecidableEq, Repr

/-- The multiplier's working registers (10_state.md R35). The width of m: log entry 9. -/
structure Multiplier (W : Nat) where
  T : BitVec (W + 1)
  i : BitVec (counterWidth W)
  X : BitVec W
  Y : BitVec W
  M : BitVec W
  m : BitVec (counterWidth W)
deriving DecidableEq, Repr

/-- The exponentiator's working registers `ex_m`, `ex_Rm`, `ex_RR`, `ex_b`, `ex_E`, `ex_bs` and `ex_acc`
(10_state.md R36). The width of ex_m: log entry 9. -/
structure Exponentiator (W : Nat) where
  m   : BitVec (counterWidth W)
  Rm  : BitVec W
  RR  : BitVec W
  b   : BitVec W
  E   : BitVec W
  bs  : BitVec W
  acc : BitVec W
deriving DecidableEq, Repr

/-- The block: everything 10_state.md gives it, for an operand width W. -/
structure Block (W : Nat) where
  /-- OPA, index 2 (10_state.md R21, R22). -/
  opa    : BitVec W
  /-- OPB, index 3. -/
  opb    : BitVec W
  /-- MOD, index 4. -/
  mod    : BitVec W
  /-- BITW, index 5. -/
  bitw   : BitVec W
  /-- RESULT, index 6 (10_state.md R23). -/
  result : BitVec W
  /-- STATUS.BUSY (10_state.md R28). -/
  busy   : Bool
  /-- STATUS.DONE (10_state.md R29). -/
  done   : Bool
  /-- STATUS.ERR (10_state.md R30). -/
  err    : BitVec 3
  /-- STATUS.OVR (10_state.md R31). -/
  ovr    : Bool
  /-- `L` (10_state.md R34). -/
  latch  : Latch W
  /-- The multiplier (10_state.md R35). -/
  mul    : Multiplier W
  /-- The exponentiator (10_state.md R36). -/
  ex     : Exponentiator W
  /-- `phase` (10_state.md R36). -/
  phase  : Phase
  /-- The phase the running MonMul returns to. Log entry 8. -/
  caller : Caller
deriving DecidableEq, Repr

/-- The block after the reset event (10_state.md R42; 70_reset_and_hazards.md R180). The hidden registers, which the
spec leaves unspecified there, are 0 (93_implementation_defined.md U2: "A model may set them to 0"): DESIGN CHOICE,
log entry 3. -/
def Block.reset (W : Nat) : Block W where
  opa := 0
  opb := 0
  mod := 0
  bitw := 0
  result := 0
  busy := false
  done := false
  err := 0
  ovr := false
  latch := { op := 0, A := 0, B := 0, M := 0, m := 0 }
  mul := { T := 0, i := 0, X := 0, Y := 0, M := 0, m := 0 }
  ex := { m := 0, Rm := 0, RR := 0, b := 0, E := 0, bs := 0, acc := 0 }
  phase := .idle
  caller := .monmul

/-- One operation of a host program (30_encoding.md R76, R77). -/
inductive HostOp (W : Nat) where
  /-- `wr REG, v`: `MemWrite(i, W, v)`. -/
  | wr (i : BitVec 3) (v : BitVec W)
  /-- `rd REG -> n`: `n <- MemRead(i, W)`. -/
  | rd (i : BitVec 3)
  /-- `wait -> s`: `rd STATUS` repeated until DONE = 1. Log entry 13. -/
  | wait
deriving DecidableEq, Repr

/-- Whose step comes next (10_state.md R20). Log entries 6 and 7. -/
inductive Turn where
  /-- One host step. -/
  | host
  /-- The engine makes k micro-steps of its reference sequencing: "any finite number of internal steps"
  (10_state.md R39). -/
  | engine (k : Nat)
  /-- The reset event (70_reset_and_hazards.md R180). -/
  | reset
deriving DecidableEq, Repr

/-- The machine's state: the block of the build `Config.W`, and the model's own fields. -/
structure State extends Block Config.W where
  /-- What the host still has to do, first operation first. Log entry 5. -/
  prog     : List (HostOp Config.W)
  /-- Whose turn comes when, next turn first. Log entry 6. -/
  sched    : List Turn
  /-- What the host's reads returned (slot index and value), newest first. Log entry 12. -/
  returned : List (BitVec 3 × BitVec Config.W)
  /-- How many free values have been passed by (`Config.freeWord`). Log entry 1. -/
  draws    : Nat
deriving DecidableEq, Repr

/-- The reasons the machine could stop with a fault: none. "The block has no fault state"
(70_reset_and_hazards.md R195), "no access traps" (60_exceptions.md R164), and "There is no stuck state"
(70_reset_and_hazards.md R192). Safe: nothing is left out by it. Log entry 14. -/
inductive Fault where
deriving DecidableEq, Repr

/-- The reasons the model could refuse an instruction. -/
inductive Refusal where
  /-- Raised by an arm of `exec` whose instruction has no meaning yet. No arm uses it. Safe. -/
  | notModelled (mnemonic : String)
deriving DecidableEq, Repr

/-- The machine right after reset (10_state.md R42). The model's own fields are empty: log entries 1, 5, 6, 12. -/
def State.reset : State where
  toBlock := Block.reset Config.W
  prog := []
  sched := []
  returned := []
  draws := 0

end Sys2Proof.Machine
end

