-- ==== Sys2Proof/Machine/Montgomery.lean ====
section
/-! DEFINITION. The arithmetic of the engine as pure functions on natural numbers (00_scope.md R12): the MonMul
primitive (40_montgomery_multiply.md, section 1), the parameter derivation and the square-and-multiply loop
(41_modular_exponentiation.md, sections 1 and 2). -/

namespace Sys2Proof.Machine

/-- `bitlen(v)`: "the smallest n with 2^n > v" (00_scope.md R11; 41_modular_exponentiation.md R120). -/
def bitlen (v : Nat) : Nat := if v = 0 then 0 else Nat.log2 v + 1

/-- The pre-shift sum S of one iteration of the MonMul loop (40_montgomery_multiply.md R90). -/
def monSum (Y M T : Nat) (Xi : Bool) : Nat :=
  let eta := T.testBit 0 ^^ (Xi && Y.testBit 0)
  T + (if Xi then Y else 0) + (if eta then M else 0)

/-- "if T >= M: T <- T - M" (40_montgomery_multiply.md R90, R93). -/
def subOnce (M T : Nat) : Nat := if M ≤ T then T - M else T

/-- One iteration of the MonMul loop: the sum, the exact halving, the conditional subtraction
(40_montgomery_multiply.md R90). -/
def monIter (Y M T : Nat) (Xi : Bool) : Nat := subOnce M (monSum Y M T Xi >>> 1)

/-- The accumulator T after the first k iterations (40_montgomery_multiply.md R90). -/
def monLoop (X Y M : Nat) : Nat → Nat
  | 0 => 0
  | k + 1 => monIter Y M (monLoop X Y M k) (X.testBit k)

/-- `MonMul(X, Y, M, m)` (40_montgomery_multiply.md R90): exactly m iterations (R91), then the defensive final
reduction. -/
def monMul (X Y M m : Nat) : Nat := subOnce M (monLoop X Y M m)

/-- Rm = 2^m mod M (41_modular_exponentiation.md R121), m = bitlen(M). -/
def radixResidue (M : Nat) : Nat := 2 ^ bitlen M % M

/-- RR = Rm² mod M (41_modular_exponentiation.md R122). -/
def radixSquare (M : Nat) : Nat := radixResidue M * radixResidue M % M

/-- The square-and-multiply loop of 41_modular_exponentiation.md R126, for at most `fuel` iterations; the loop runs
bitlen(E) times. The multiply uses bs as it is before the iteration's squaring. -/
def expLoop (M m : Nat) : (fuel E acc bs : Nat) → Nat
  | 0, _, acc, _ => acc
  | fuel + 1, E, acc, bs =>
    if E = 0 then acc
    else expLoop M m fuel (E >>> 1) (if E.testBit 0 then monMul acc bs M m else acc) (monMul bs bs M m)

/-- E, acc and bs after k iterations of the same loop (41_modular_exponentiation.md R126). -/
def expAfter (M m E acc bs : Nat) : Nat → Nat × Nat × Nat
  | 0 => (E, acc, bs)
  | k + 1 =>
    match expAfter M m E acc bs k with
    | (E', acc', bs') =>
      if E' = 0 then (E', acc', bs')
      else (E' >>> 1, if E'.testBit 0 then monMul acc' bs' M m else acc', monMul bs' bs' M m)

/-- ModExp(base, exponent, M): the value of 41_modular_exponentiation.md R128 for a valid modulus. -/
def modExp (base exponent M : Nat) : Nat :=
  let m := bitlen M
  let RR := radixSquare M
  let bs := monMul (base % M) RR M m
  let acc := monMul 1 RR M m
  monMul (expLoop M m (bitlen exponent) exponent acc bs) 1 M m

/-- How often a successful MODEXP evaluates MonMul: 3 + bitlen(exponent) + popcount(exponent)
(41_modular_exponentiation.md R130; informative). -/
def modExpCalls (exponent : Nat) : Nat :=
  3 + bitlen exponent + ((List.range (bitlen exponent)).filter exponent.testBit).length

end Sys2Proof.Machine
end

