-- ==== Sys2Proof/Machine/Flags.lean ====
section
/-! DEFINITION. The STATUS register: its word, its completion codes, and every update of its fields
(10_state.md R27 to R33; 60_exceptions.md R151). -/

namespace Sys2Proof.Machine

/-- The completion code of an error (60_exceptions.md R151). -/
def CommandError.code (e : CommandError) : BitVec 3 :=
  match e with
  | .invalidModulus => 1
  | .invalidCommand => 3
  | .invalidBitwidth => 4

/-- The STATUS read value: `zext_W({OVR, ERR[2:0], DONE, BUSY})` (10_state.md R32). -/
def Block.statusWord {W : Nat} (b : Block W) : BitVec W :=
  (BitVec.ofBool b.ovr ++ b.err ++ BitVec.ofBool b.done ++ BitVec.ofBool b.busy).setWidth W

/-- The output signal `done`, equal to STATUS.DONE in every state (10_state.md R33; 60_exceptions.md R162). -/
def Block.doneSignal {W : Nat} (b : Block W) : Bool := b.done

/-- The STATUS fields at an accept: BUSY ← 1; DONE ← 0; ERR ← 000; OVR ← 0 (10_state.md R37). -/
def Block.statusAccept {W : Nat} (b : Block W) : Block W :=
  { b with busy := true, done := false, err := 0, ovr := false }

/-- The STATUS fields at a completion with the given code: BUSY ← 0; DONE ← 1; ERR ← code; OVR is not written
(10_state.md R38). -/
def Block.statusComplete {W : Nat} (code : BitVec 3) (b : Block W) : Block W :=
  { b with busy := false, done := true, err := code }

/-- OVR ← 1: a START was written while BUSY was 1 (10_state.md R31; 60_exceptions.md R157). -/
def Block.statusOverrun {W : Nat} (b : Block W) : Block W := { b with ovr := true }

end Sys2Proof.Machine
end

