-- ==== Sys2Proof/Machine/Operands.lean ====
section
/-! DEFINITION. The operands of a command: how the accept copies them (10_state.md R34; 30_encoding.md R71, R72),
and the conditions a command checks on them (60_exceptions.md R152 to R155, R158). -/

namespace Sys2Proof.Machine

/-- The copy an accept makes: OP of the accepting write, and OPA, OPB, MOD and BITW whole (10_state.md R34, R37). -/
def Block.latchOperands {W : Nat} (op : BitVec 2) (b : Block W) : Latch W :=
  { op := op, A := b.opa, B := b.opb, M := b.mod, m := b.bitw }

/-- The instruction a latched command is (30_encoding.md R71). -/
def Latch.command {W : Nat} (L : Latch W) : Instr := commandOfOp L.op

/-- Whether the latched modulus is valid: odd and greater than 1 (60_exceptions.md R152). -/
def Latch.validModulus {W : Nat} (L : Latch W) : Bool := L.M.getLsbD 0 && decide (1 < L.M.toNat)

/-- Whether the latched bit width is bitlen(M), compared as a number (60_exceptions.md R155; 30_encoding.md R72). -/
def Latch.validBitwidth {W : Nat} (L : Latch W) : Bool := decide (L.m.toNat = bitlen L.M.toNat)

/-- Whether both operands of a MONMUL lie below 2^m (40_montgomery_multiply.md R99, R97). Only a MONMUL reads it. -/
def Latch.operandsInRange {W : Nat} (L : Latch W) : Bool :=
  decide (L.A.toNat < 2 ^ L.m.toNat) && decide (L.B.toNat < 2 ^ L.m.toNat)

end Sys2Proof.Machine
end

