-- ==== Sys2Proof/Machine/Ops.lean ====
section
/-! DEFINITION. The operations all commands share: reading and writing the register slots, the accept, the two
completions (an error completion is what this block has for taking an exception), and the reset event. -/

namespace Sys2Proof.Machine

/-- The slot a 3-bit index names (10_state.md R21). -/
def Slot.ofIndex (i : BitVec 3) : Slot :=
  match i.getLsbD 2, i.getLsbD 1, i.getLsbD 0 with
  | false, false, false => .ctrl
  | false, false, true  => .status
  | false, true,  false => .opa
  | false, true,  true  => .opb
  | true,  false, false => .mod
  | true,  false, true  => .bitw
  | true,  true,  false => .result
  | true,  true,  true  => .slot7

/-- The index of a slot (10_state.md R21). -/
def Slot.index (r : Slot) : BitVec 3 :=
  match r with
  | .ctrl => 0
  | .status => 1
  | .opa => 2
  | .opb => 3
  | .mod => 4
  | .bitw => 5
  | .result => 6
  | .slot7 => 7

/-- `MemRead(i, W)` (20_memory.md R50). -/
def Block.memRead {W : Nat} (i : BitVec 3) (b : Block W) : BitVec W :=
  match Slot.ofIndex i with
  | .ctrl => 0
  | .status => b.statusWord
  | .opa => b.opa
  | .opb => b.opb
  | .mod => b.mod
  | .bitw => b.bitw
  | .result => b.result
  | .slot7 => 0

/-- `MemWrite` to a slot other than CTRL (20_memory.md R51): an operand register stores the value, every other slot
ignores it. A write to CTRL is a command and is not this operation's. -/
def Block.writeSlot {W : Nat} (r : Slot) (v : BitVec W) (b : Block W) : Block W :=
  match r with
  | .ctrl => b
  | .status => b
  | .opa => { b with opa := v }
  | .opb => { b with opb := v }
  | .mod => { b with mod := v }
  | .bitw => { b with bitw := v }
  | .result => b
  | .slot7 => b

/-- The accept (10_state.md R37). RESULT, the operand registers and the working registers are unchanged. -/
def Block.accept {W : Nat} (op : BitVec 2) (b : Block W) : Block W :=
  { b.statusAccept with latch := b.latchOperands op, phase := .check }

/-- A CTRL write with START = 1: dropped with OVR ← 1 while BUSY = 1, an accept otherwise (10_state.md R37). -/
def Block.start {W : Nat} (op : BitVec 2) (b : Block W) : Block W :=
  if b.busy then b.statusOverrun else b.accept op

/-- The machine's step for a CTRL write with START = 1. -/
def startCommand (op : BitVec 2) (s : State) : Host.Outcome State Fault Refusal :=
  .next { s with toBlock := s.toBlock.start op }

/-- `complete_ok(z)` (10_state.md R38). No hidden register but phase is written: log entry 19. -/
def Block.completeOk {W : Nat} (z : BitVec W) (b : Block W) : Block W :=
  { b.statusComplete 0 with result := z, phase := .idle }

/-- `raise Error(c)` (10_state.md R38; 60_exceptions.md R160): RESULT is unchanged, nothing is saved, no vector is
taken. There is no return from it (60_exceptions.md R161): the next accept clears DONE, ERR and OVR. -/
def Block.raiseError {W : Nat} (e : CommandError) (b : Block W) : Block W :=
  { b.statusComplete e.code with phase := .idle }

/-- A completion (10_state.md R38). -/
def Block.complete {W : Nat} (c : Completion W) (b : Block W) : Block W :=
  match c with
  | .ok z => b.completeOk z
  | .error e => b.raiseError e

/-- The reset event (70_reset_and_hazards.md R180, R182). It is the block's; the host's program, the order of turns
and what the host has read stay (log entry 4). -/
def resetEvent (s : State) : State := { s with toBlock := Block.reset Config.W }

end Sys2Proof.Machine
end

