-- ==== Sys2Proof/Machine/Multiplier.lean ====
section
/-! DEFINITION. The Montgomery multiplier and the MONMUL command (40_montgomery_multiply.md): the register-level
datapath of the MM_ITER and MM_FINAL phases, and the command's accept, checks and completion. -/

namespace Sys2Proof.Machine

/-- The W+2-bit pre-shift sum of the combinational adder (10_state.md R35; 40_montgomery_multiply.md R90, R96). -/
def Multiplier.sum {W : Nat} (u : Multiplier W) : BitVec (W + 2) :=
  let Xi := u.X.getLsbD u.i.toNat
  let eta := u.T.getLsbD 0 ^^ (Xi && u.Y.getLsbD 0)
  u.T.setWidth (W + 2) + (if Xi then u.Y.setWidth (W + 2) else 0) + (if eta then u.M.setWidth (W + 2) else 0)

/-- T after "if T >= M: T <- T - M" (40_montgomery_multiply.md R90). -/
def Multiplier.subM {W : Nat} (u : Multiplier W) : Multiplier W :=
  if u.M.setWidth (W + 1) ≤ u.T then { u with T := u.T - u.M.setWidth (W + 1) } else u

/-- One iteration of 40_montgomery_multiply.md R90 for index i, then i ← i + 1 (R103). -/
def Multiplier.iterate {W : Nat} (u : Multiplier W) : Multiplier W :=
  let shifted := { u with T := (u.sum >>> 1).setWidth (W + 1) }
  { shifted.subM with i := u.i + 1 }

/-- A MonMul begins: the operands are taken, T ← 0, i ← 0, and the engine enters MM_ITER
(40_montgomery_multiply.md R103). -/
def Block.startMonMul {W : Nat} (c : Caller) (X Y M : BitVec W) (m : BitVec (counterWidth W)) (b : Block W) :
    Block W :=
  { b with mul := { T := 0, i := 0, X := X, Y := Y, M := M, m := m }, phase := .mmIter, caller := c }

/-- MM_ITER: one iteration; once i = m, on to MM_FINAL (40_montgomery_multiply.md R103). -/
def Block.mmIter {W : Nat} (b : Block W) : Block W :=
  let u := b.mul.iterate
  { b with mul := u, phase := if u.i = u.m then .mmFinal else .mmIter }

/-- The CHECK phase of MONMUL: INVALID_MODULUS, else INVALID_BITWIDTH, else one MonMul of the latched operands
(40_montgomery_multiply.md R99, R100, R101, R103). -/
def checkMonmul {W : Nat} (b : Block W) : Block W :=
  if !b.latch.validModulus then b.raiseError .invalidModulus
  else if !b.latch.validBitwidth then b.raiseError .invalidBitwidth
  else b.startMonMul .monmul b.latch.A b.latch.B b.latch.M (b.latch.m.setWidth (counterWidth W))

/-- The completion of MONMUL, T the multiplier's result: RESULT ← T inside the contract, and outside it the free
value (40_montgomery_multiply.md R97, R99; log entries 1 and 11). -/
def completeMonmul {W : Nat} (free : BitVec W) (b : Block W) : Block W :=
  b.completeOk (if b.latch.operandsInRange then b.mul.T.setWidth W else free)

/-- MONMUL, the host's CTRL write with START = 1 and OP = 01 (40_montgomery_multiply.md R99; 10_state.md R37). The
engine then runs `checkMonmul`, the multiplier and `completeMonmul`. -/
def execMonmul (s : State) : Host.Outcome State Fault Refusal := startCommand 0b01 s

end Sys2Proof.Machine
end

