-- ==== Sys2Proof/Machine/Exponentiator.lean ====
section
/-! DEFINITION. The modular exponentiator and the MODEXP command (41_modular_exponentiation.md): the phases of R135
and the command's accept, check and completion. -/

namespace Sys2Proof.Machine

/-- The CHECK phase of MODEXP: INVALID_MODULUS, else on to PARAM (41_modular_exponentiation.md R128, R132, R135). -/
def checkModexp {W : Nat} (b : Block W) : Block W :=
  if !b.latch.validModulus then b.raiseError .invalidModulus
  else { b with phase := .param }

/-- PARAM: ex_m, ex_Rm and ex_RR from the latched modulus (41_modular_exponentiation.md R120 to R122). The values are
computed directly (93_implementation_defined.md U10; log entry 17). -/
def Block.param {W : Nat} (b : Block W) : Block W :=
  { b with
    ex := { b.ex with
      m := BitVec.ofNat (counterWidth W) (bitlen b.latch.M.toNat)
      Rm := BitVec.ofNat W (radixResidue b.latch.M.toNat)
      RR := BitVec.ofNat W (radixSquare b.latch.M.toNat) }
    phase := .reduce }

/-- REDUCE: ex_b = base mod M (41_modular_exponentiation.md R123). -/
def Block.reduceBase {W : Nat} (b : Block W) : Block W :=
  { b with ex := { b.ex with b := b.latch.A % b.latch.M }, phase := .convIn }

/-- A MonMul of the exponentiator: the modulus is the latched one, the bit width ex_m. -/
def Block.exMonMul {W : Nat} (c : Caller) (X Y : BitVec W) (b : Block W) : Block W :=
  b.startMonMul c X Y b.latch.M b.ex.m

/-- Where the loop goes for the remaining exponent: CONV_OUT when it is 0, else LOOP_MUL when its bit 0 is 1, else
LOOP_SQR (41_modular_exponentiation.md R135, step 6). -/
def loopPhase {W : Nat} (E : BitVec W) : Phase :=
  if E = 0 then .convOut else if E.getLsbD 0 then .loopMul else .loopSqr

/-- CONV_IN returns: ex_bs ← T (41_modular_exponentiation.md R124). -/
def Block.returnConvIn {W : Nat} (b : Block W) : Block W :=
  { b with ex := { b.ex with bs := b.mul.T.setWidth W }, phase := .convOne }

/-- CONV_ONE returns: ex_acc ← T, then E ← L.B (41_modular_exponentiation.md R125, R128; log entry 10). -/
def Block.returnConvOne {W : Nat} (b : Block W) : Block W :=
  { b with ex := { b.ex with acc := b.mul.T.setWidth W, E := b.latch.B }, phase := loopPhase b.latch.B }

/-- LOOP_MUL returns: ex_acc ← T; the squaring follows (41_modular_exponentiation.md R126, R135). -/
def Block.returnLoopMul {W : Nat} (b : Block W) : Block W :=
  { b with ex := { b.ex with acc := b.mul.T.setWidth W }, phase := .loopSqr }

/-- LOOP_SQR returns: ex_bs ← T, ex_E ← ex_E >> 1 (41_modular_exponentiation.md R126, R135). -/
def Block.returnLoopSqr {W : Nat} (b : Block W) : Block W :=
  { b with ex := { b.ex with bs := b.mul.T.setWidth W, E := b.ex.E >>> 1 }, phase := loopPhase (b.ex.E >>> 1) }

/-- The completion of MODEXP, T the multiplier's result: RESULT ← T (41_modular_exponentiation.md R127, R128). -/
def completeModexp {W : Nat} (b : Block W) : Block W := b.completeOk (b.mul.T.setWidth W)

/-- MODEXP, the host's CTRL write with START = 1 and OP = 10 (41_modular_exponentiation.md R128; 10_state.md R37).
The engine then runs `checkModexp`, the phases of R135 and `completeModexp`. -/
def execModexp (s : State) : Host.Outcome State Fault Refusal := startCommand 0b10 s

end Sys2Proof.Machine
end

