-- ==== Sys2Proof/Machine/Reserved.lean ====
section
/-! DEFINITION. The reserved command codes (60_exceptions.md R154) and the CTRL write that is no command
(10_state.md R37; 30_encoding.md R74). -/

namespace Sys2Proof.Machine

/-- The CHECK phase of a reserved command code: INVALID_COMMAND always, no other check is made
(60_exceptions.md R154, R159). -/
def checkReserved {W : Nat} (b : Block W) : Block W := b.raiseError .invalidCommand

/-- OP = 00 with START = 1: "accepted like any command" (30_encoding.md R74). The engine then runs `checkReserved`. -/
def execReservedOp00 (s : State) : Host.Outcome State Fault Refusal := startCommand 0b00 s

/-- OP = 11 with START = 1: "accepted like any command" (30_encoding.md R74). The engine then runs `checkReserved`. -/
def execReservedOp11 (s : State) : Host.Outcome State Fault Refusal := startCommand 0b11 s

/-- START = 0: "(no effect)" (10_state.md R37). -/
def execNocmd (s : State) : Host.Outcome State Fault Refusal := .next s

end Sys2Proof.Machine
end

