-- ==== Sys2Proof/Machine/Engine.lean ====
section
/-! DEFINITION. The engine: one micro-step of the reference sequencing (40_montgomery_multiply.md R103;
41_modular_exponentiation.md R135), and the engine's turn in the machine. -/

namespace Sys2Proof.Machine

/-- CHECK: the latched command decides which checks apply (60_exceptions.md R159). NOCMD is never latched
(10_state.md R37), and `Latch.command` never gives it. -/
def Block.check {W : Nat} (b : Block W) : Block W :=
  match b.latch.command with
  | .monmul => checkMonmul b
  | .modexp => checkModexp b
  | .reservedOp00 => checkReserved b
  | .reservedOp11 => checkReserved b
  | .nocmd => b

/-- MM_FINAL hands T to the caller phase (40_montgomery_multiply.md R103; 41_modular_exponentiation.md R135). -/
def Block.returnToCaller {W : Nat} (free : BitVec W) (b : Block W) : Block W :=
  match b.caller with
  | .monmul => completeMonmul free b
  | .convIn => b.returnConvIn
  | .convOne => b.returnConvOne
  | .loopMul => b.returnLoopMul
  | .loopSqr => b.returnLoopSqr
  | .convOut => completeModexp b

/-- MM_FINAL: the defensive final reduction, then the return (40_montgomery_multiply.md R90, R103). -/
def Block.mmFinal {W : Nat} (free : BitVec W) (b : Block W) : Block W :=
  { b with mul := b.mul.subM }.returnToCaller free

/-- One micro-step of the engine, by phase. `free` is the free value a MONMUL outside the contract would take. -/
def Block.tick {W : Nat} (free : BitVec W) (b : Block W) : Block W :=
  match b.phase with
  | .idle => b
  | .check => b.check
  | .param => b.param
  | .reduce => b.reduceBase
  | .convIn => b.exMonMul .convIn b.ex.b b.ex.RR
  | .convOne => b.exMonMul .convOne 1 b.ex.RR
  | .loopMul => b.exMonMul .loopMul b.ex.acc b.ex.bs
  | .loopSqr => b.exMonMul .loopSqr b.ex.bs b.ex.bs
  | .convOut => b.exMonMul .convOut b.ex.acc 1
  | .mmIter => b.mmIter
  | .mmFinal => b.mmFinal free

/-- One micro-step of the machine's engine. "The engine takes no steps while idle" (60_exceptions.md R169). A
micro-step passes one free value by, whether or not it takes it (log entry 1). -/
def engineTick (s : State) : State :=
  if s.busy then { s with toBlock := s.toBlock.tick (Config.freeWord Config.W s.draws), draws := s.draws + 1 } else s

/-- k micro-steps. -/
def engineTicks : Nat → State → State
  | 0, s => s
  | k + 1, s => engineTicks k (engineTick s)

end Sys2Proof.Machine
end

