-- ==== Sys2Proof/Machine/Dispatch.lean ====
section
/-! DEFINITION. One arm per constructor of Instr: what the host's CTRL write does (20_memory.md R51). -/

namespace Sys2Proof.Machine

def exec (i : Instr) (s : State) : Host.Outcome State Fault Refusal :=
  match i with
  | .monmul => Sys2Proof.Machine.execMonmul s
  | .modexp => Sys2Proof.Machine.execModexp s
  | .reservedOp00 => Sys2Proof.Machine.execReservedOp00 s
  | .reservedOp11 => Sys2Proof.Machine.execReservedOp11 s
  | .nocmd => Sys2Proof.Machine.execNocmd s

end Sys2Proof.Machine
end

