-- ==== Sys2Proof/Machine/HostPort.lean ====
section
/-! DEFINITION. The host's steps (20_memory.md R50, R51; 30_encoding.md R76, R77): a register read, a register write,
one poll of `wait`; and the notation's pseudo-instructions. -/

namespace Sys2Proof.Machine

/-- `MemWrite(i, W, v)` (20_memory.md R51): a write to CTRL runs the decoded instruction. -/
def memWrite (i : BitVec 3) (v : Word) (s : State) : Host.Outcome State Fault Refusal :=
  match Slot.ofIndex i with
  | .ctrl => exec (decode v) s
  | r => .next { s with toBlock := s.toBlock.writeSlot r v }

/-- `MemRead(i, W)` as a host step: the value goes to the host, the block's state is unchanged (20_memory.md R50). -/
def hostRead (i : BitVec 3) (s : State) : State := { s with returned := (i, s.toBlock.memRead i) :: s.returned }

/-- One poll of `wait` (30_encoding.md R77): `rd STATUS`, and once more while s[1] = 0. Log entry 13. -/
def hostPoll (s : State) : State :=
  if s.statusWord.getLsbD 1 then hostRead Slot.status.index s
  else { hostRead Slot.status.index s with prog := .wait :: s.prog }

/-- One host step, its operation taken off the program. -/
def hostStep (op : HostOp Config.W) (s : State) : Host.Outcome State Fault Refusal :=
  match op with
  | .wr i v => memWrite i v s
  | .rd i => .next (hostRead i s)
  | .wait => .next (hostPoll s)

/-- The host's turn: its next operation, and nothing once its program has ended (70_reset_and_hazards.md R193). -/
def hostTurn (s : State) : Host.Outcome State Fault Refusal :=
  match s.prog with
  | [] => .next s
  | op :: rest => hostStep op { s with prog := rest }

/-- The pseudo-instruction `start` (30_encoding.md R77): the canonical CTRL value of a command. -/
def startOp (i : Instr) : HostOp Config.W := .wr Slot.ctrl.index (encode Config.W i)

/-- The pseudo-instruction `monmul X, Y, M, m -> z` (30_encoding.md R77, R78). -/
def monmulOps (X Y M m : Word) : List (HostOp Config.W) :=
  [.wr Slot.opa.index X, .wr Slot.opb.index Y, .wr Slot.mod.index M, .wr Slot.bitw.index m, startOp .monmul, .wait,
    .rd Slot.result.index]

/-- The pseudo-instruction `modexp B, E, M -> z` (30_encoding.md R77). -/
def modexpOps (B E M : Word) : List (HostOp Config.W) :=
  [.wr Slot.opa.index B, .wr Slot.opb.index E, .wr Slot.mod.index M, startOp .modexp, .wait, .rd Slot.result.index]

/-- The host step a transaction record stands for; a record that is not well formed stands for none
(30_encoding.md R76). -/
def hostOpOfRecord (r : Record) : Option (HostOp Config.W) :=
  if r.wellFormed Config.W then
    match r with
    | .write idx v => some (.wr (BitVec.ofNat 3 idx) (BitVec.ofNat Config.W v))
    | .read idx => some (.rd (BitVec.ofNat 3 idx))
  else none

end Sys2Proof.Machine
end

