-- ==== Sys2Proof/Machine/Reference.lean ====
section
/-! DEFINITION. How each command ends, from the latched copy alone: the pseudocode of 40_montgomery_multiply.md R99,
41_modular_exponentiation.md R128 and 60_exceptions.md R154, "evaluated at completion, from L alone". The machine's
engine reaches the same completion by its phases; 10_state.md R39 and R40 let a model collapse them. -/

namespace Sys2Proof.Machine

/-- MONMUL (40_montgomery_multiply.md R99); `free` stands for "any W-bit value". -/
def Latch.monmulCompletion {W : Nat} (free : BitVec W) (L : Latch W) : Completion W :=
  if !L.validModulus then .error .invalidModulus
  else if !L.validBitwidth then .error .invalidBitwidth
  else if !L.operandsInRange then .ok free
  else .ok (BitVec.ofNat W (monMul L.A.toNat L.B.toNat L.M.toNat L.m.toNat))

/-- MODEXP (41_modular_exponentiation.md R128). -/
def Latch.modexpCompletion {W : Nat} (L : Latch W) : Completion W :=
  if !L.validModulus then .error .invalidModulus
  else .ok (BitVec.ofNat W (modExp L.A.toNat L.B.toNat L.M.toNat))

/-- The completion of a latched command, with the priority of 60_exceptions.md R159. NOCMD is never latched. -/
def Latch.completion {W : Nat} (free : BitVec W) (L : Latch W) : Completion W :=
  match L.command with
  | .monmul => L.monmulCompletion free
  | .modexp => L.modexpCompletion
  | .reservedOp00 => .error .invalidCommand
  | .reservedOp11 => .error .invalidCommand
  | .nocmd => .error .invalidCommand

end Sys2Proof.Machine
end

