-- ==== Sys2Proof/Machine/Step.lean ====
section
/-! DEFINITION. One step of the machine: a host step, engine micro-steps or the reset event (10_state.md R20). -/

namespace Sys2Proof.Machine

/-- One step. The next turn of `sched` says whose it is. Once `sched` is used up, a busy engine moves on (the weak
fairness of 10_state.md R39) and else the host does; with nothing left to do the state stays as it is
(60_exceptions.md R169). Log entry 6. -/
def step (s : State) : Host.Outcome State Fault Refusal :=
  match s.sched with
  | .host :: rest => hostTurn { s with sched := rest }
  | .engine k :: rest => .next (engineTicks k { s with sched := rest })
  | .reset :: rest => .next (resetEvent { s with sched := rest })
  | [] => if s.busy then .next (engineTick s) else hostTurn s

/-- The state in which the next step is the host's write to CTRL of the word w, its bits above `nbits` zero: the block
fetches nothing (10_state.md R25), so an instruction comes in as the host's next operation, in the host's turn. Log
entry 5. -/
def State.withFetchWord (s : State) (nbits w : Nat) : State :=
  { s with prog := .wr Slot.ctrl.index (BitVec.ofNat Config.W (w % 2 ^ nbits)) :: s.prog, sched := .host :: s.sched }

/-- A host program started under a launch premise (70_reset_and_hazards.md R195): `s` with the program and the order
of turns placed. Log entry 5. -/
def State.launch (s : State) (prog : List (HostOp Config.W)) (sched : List Turn) : State :=
  { s with prog := prog, sched := sched }

end Sys2Proof.Machine
end

