-- ==== Sys2Proof/Safety.lean ====
section
/-! DEFINITION. The predicates claims are stated in: what a safe state is (the invariants of 10_state.md R32, R36 and
60_exceptions.md R156, and the engine's own), how a command ends (10_state.md R38), which states are reachable, and
the launch premises and the end of a run (70_reset_and_hazards.md R193, R195). -/

namespace Sys2Proof.Machine

/-- A modulus is valid iff it is odd and greater than 1 (00_scope.md R9). -/
abbrev ValidModulus (M : Nat) : Prop := M % 2 = 1 ∧ 1 < M

/-- The contract region of MonMul (40_montgomery_multiply.md R94). -/
abbrev ContractRegion (X Y M m : Nat) : Prop :=
  M % 2 = 1 ∧ 3 ≤ M ∧ m = bitlen M ∧ X < 2 ^ m ∧ Y < 2 ^ m

/-- The completion is the one the STATUS and RESULT registers show (10_state.md R38; 60_exceptions.md R151). -/
def Completion.shownBy {W : Nat} (c : Completion W) (b : Block W) : Prop :=
  match c with
  | .ok z => b.err = 0 ∧ b.result = z
  | .error e => b.err = e.code

/-- The rules of 10_state.md R32 and R36 and 60_exceptions.md R156 about STATUS and phase. -/
structure Block.StatusInv {W : Nat} (b : Block W) : Prop where
  /-- "BUSY = 1 implies DONE = 0 and ERR = 0." -/
  busy_clear  : b.busy = true → b.done = false ∧ b.err = 0
  /-- "BUSY = 0 and DONE = 0 holds only after reset and before the first accept": then STATUS and RESULT still hold
  their reset values. -/
  fresh       : b.busy = false → b.done = false → b.err = 0 ∧ b.ovr = false ∧ b.result = 0
  /-- "phase = IDLE if and only if BUSY = 0." -/
  phase_idle  : b.phase = .idle ↔ b.busy = false
  /-- "A model may assume ERR ∈ {0, 1, 3, 4} in every reachable state." -/
  err_codes   : b.err = 0 ∨ b.err = 1 ∨ b.err = 3 ∨ b.err = 4

/-- Once DONE = 1, STATUS.ERR and RESULT show the completion of the latched command (10_state.md R23, R38), for some
free value. -/
def Block.ResultInv {W : Nat} (b : Block W) : Prop :=
  b.done = true → ∃ free, (b.latch.completion free).shownBy b

/-- The command in progress is a MODEXP with a valid modulus. -/
def Block.InModexp {W : Nat} (b : Block W) : Prop := b.latch.command = .modexp ∧ b.latch.validModulus = true

/-- PARAM has filled ex_m, ex_Rm and ex_RR (41_modular_exponentiation.md R120 to R122). -/
def Block.ParamsFilled {W : Nat} (b : Block W) : Prop :=
  b.InModexp ∧ b.ex.m.toNat = bitlen b.latch.M.toNat ∧ b.ex.Rm.toNat = radixResidue b.latch.M.toNat ∧
    b.ex.RR.toNat = radixSquare b.latch.M.toNat

/-- base_scaled before the loop (41_modular_exponentiation.md R124). -/
def Latch.bs0 {W : Nat} (L : Latch W) : Nat :=
  monMul (L.A.toNat % L.M.toNat) (radixSquare L.M.toNat) L.M.toNat (bitlen L.M.toNat)

/-- result before the loop (41_modular_exponentiation.md R125). -/
def Latch.acc0 {W : Nat} (L : Latch W) : Nat :=
  monMul 1 (radixSquare L.M.toNat) L.M.toNat (bitlen L.M.toNat)

/-- Running the loop on from E, acc and bs ends where the whole loop ends (41_modular_exponentiation.md R126), and
acc and bs lie below M. -/
def Block.LoopOnPath {W : Nat} (b : Block W) (E acc bs : Nat) : Prop :=
  b.ParamsFilled ∧ acc < b.latch.M.toNat ∧ bs < b.latch.M.toNat ∧
    expLoop b.latch.M.toNat (bitlen b.latch.M.toNat) (bitlen E) E acc bs =
      expLoop b.latch.M.toNat (bitlen b.latch.M.toNat) (bitlen b.latch.B.toNat) b.latch.B.toNat b.latch.acc0
        b.latch.bs0

/-- What the exponentiator's registers hold when the MonMul of a caller phase begins (41_modular_exponentiation.md
R135), and what they still hold when it returns. -/
def Block.CallerReady {W : Nat} (c : Caller) (b : Block W) : Prop :=
  match c with
  | .monmul => b.latch.command = .monmul ∧ b.latch.validModulus = true ∧ b.latch.validBitwidth = true
  | .convIn => b.ParamsFilled ∧ b.ex.b.toNat = b.latch.A.toNat % b.latch.M.toNat
  | .convOne => b.ParamsFilled ∧ b.ex.bs.toNat = b.latch.bs0
  | .loopMul => b.ex.E.getLsbD 0 = true ∧ b.LoopOnPath b.ex.E.toNat b.ex.acc.toNat b.ex.bs.toNat
  | .loopSqr => b.ex.bs.toNat < b.latch.M.toNat ∧
      b.LoopOnPath (b.ex.E.toNat >>> 1) b.ex.acc.toNat
        (monMul b.ex.bs.toNat b.ex.bs.toNat b.latch.M.toNat (bitlen b.latch.M.toNat))
  | .convOut => b.ex.E = 0 ∧ b.LoopOnPath 0 b.ex.acc.toNat b.ex.bs.toNat

/-- The operands the multiplier holds for a caller (40_montgomery_multiply.md R99; 41_modular_exponentiation.md
R135). -/
def Block.OperandsOf {W : Nat} (c : Caller) (b : Block W) : Prop :=
  b.mul.M = b.latch.M ∧ b.mul.m.toNat = bitlen b.latch.M.toNat ∧
    match c with
    | .monmul => b.mul.X = b.latch.A ∧ b.mul.Y = b.latch.B
    | .convIn => b.mul.X = b.ex.b ∧ b.mul.Y = b.ex.RR
    | .convOne => b.mul.X = 1 ∧ b.mul.Y = b.ex.RR
    | .loopMul => b.mul.X = b.ex.acc ∧ b.mul.Y = b.ex.bs
    | .loopSqr => b.mul.X = b.ex.bs ∧ b.mul.Y = b.ex.bs
    | .convOut => b.mul.X = b.ex.acc ∧ b.mul.Y = 1

/-- The working registers hold, phase by phase, the values of the reference sequencing
(40_montgomery_multiply.md R103; 41_modular_exponentiation.md R135). -/
def Block.EngineInv {W : Nat} (b : Block W) : Prop :=
  match b.phase with
  | .idle => True
  | .check => True
  | .param => b.InModexp
  | .reduce => b.ParamsFilled
  | .convIn => b.CallerReady .convIn
  | .convOne => b.CallerReady .convOne
  | .loopMul => b.CallerReady .loopMul
  | .loopSqr => b.CallerReady .loopSqr
  | .convOut => b.CallerReady .convOut
  | .mmIter => b.CallerReady b.caller ∧ b.OperandsOf b.caller ∧ b.mul.i.toNat < b.mul.m.toNat ∧
      b.mul.T.toNat = monLoop b.mul.X.toNat b.mul.Y.toNat b.mul.M.toNat b.mul.i.toNat
  | .mmFinal => b.CallerReady b.caller ∧ b.OperandsOf b.caller ∧
      b.mul.T.toNat = monLoop b.mul.X.toNat b.mul.Y.toNat b.mul.M.toNat b.mul.m.toNat

/-- The invariant of the block. -/
structure Block.Inv {W : Nat} (b : Block W) : Prop where
  status : b.StatusInv
  engine : b.EngineInv
  shown  : b.ResultInv

/-- A step is safe when it answers a next state. -/
def SafeStep (s : State) : Prop := ∃ t, step s = .next t

/-- The host-visible reset state of 10_state.md R42, the hidden registers at any value: the launch premise **clean**
(70_reset_and_hazards.md R195). -/
def Block.Clean {W : Nat} (b : Block W) : Prop :=
  b.opa = 0 ∧ b.opb = 0 ∧ b.mod = 0 ∧ b.bitw = 0 ∧ b.result = 0 ∧ b.busy = false ∧ b.done = false ∧ b.err = 0 ∧
    b.ovr = false ∧ b.phase = .idle

/-- The launch premise **idle**: BUSY = 0 (70_reset_and_hazards.md R195). -/
def Block.Idle {W : Nat} (b : Block W) : Prop := b.busy = false

/-- The states the machine can be in: from any clean state, with any host program and any order of turns. -/
inductive Reachable : State → Prop
  | clean {s : State} : s.toBlock.Clean → Reachable s
  | step {s t : State} : Reachable s → step s = .next t → Reachable t

/-- The host operation the next step performs, if it is a host step. -/
def State.nextHostOp (s : State) : Option (HostOp Config.W) :=
  match s.sched with
  | .host :: _ => s.prog.head?
  | .engine _ :: _ => none
  | .reset :: _ => none
  | [] => if s.busy then none else s.prog.head?

/-- The next step is a CTRL write with START = 1. -/
def State.StartsNext (s : State) : Prop := ∃ v, s.nextHostOp = some (.wr 0 v) ∧ v.getLsbD 0 = true

/-- The next step is the reset event. -/
def State.ResetsNext (s : State) : Prop := ∃ rest, s.sched = .reset :: rest

/-- The next step is the engine's. -/
def State.EngineNext (s : State) : Prop :=
  (∃ k rest, s.sched = .engine k :: rest) ∨ (s.sched = [] ∧ s.busy = true)

/-- t is reached from s by steps that each start in a state with p. -/
inductive RunsWhile (p : State → Prop) : State → State → Prop
  | refl (s : State) : RunsWhile p s s
  | snoc {s t u : State} : RunsWhile p s t → p t → step t = .next u → RunsWhile p s u

/-- t is reached from s, and no reset comes in between (70_reset_and_hazards.md R193). -/
abbrev Runs (s t : State) : Prop := RunsWhile (fun u => ¬ u.ResetsNext) s t

/-- The step from s to t is the last host step of the host's program. A poll of `wait` that does not end the wait is
none: the wait stays in the program. -/
def State.LastHostStep (s t : State) : Prop := s.nextHostOp ≠ none ∧ step s = .next t ∧ t.prog = []

/-- The host program in s ends, and its end state is the block's state in t: the state right after the last host step,
taken at a point where BUSY = 0 (70_reset_and_hazards.md R193). A program whose last host step leaves BUSY = 1 has none.
DESIGN CHOICE, log entry 20: nor has a host program that a reset interrupts and that goes on after it. R193 says of "a
run that a reset interrupts" that it has no end and does not say whether that is the command's run only; what is left of
the program after the reset is a host program of its own, launched in a clean state, and the end state that
95_test_vectors.md gives its program P5 is the end state of that one. -/
def State.Ended (s t : State) : Prop := ∃ u, Runs s u ∧ u.LastHostStep t ∧ t.busy = false

/-- A command run: the next step of s is the command's accept, and t is the state right after its completion
(70_reset_and_hazards.md R193). A run that a reset interrupts has no end. -/
def CommandRun (s t : State) : Prop :=
  s.busy = false ∧ s.StartsNext ∧ ∃ a, step s = .next a ∧
    RunsWhile (fun u => u.busy = true ∧ ¬ u.ResetsNext) a t ∧ t.busy = false

/-- The operand registers, OVR and the latch are the same in both blocks: nothing but STATUS, RESULT, phase and the
hidden working registers may differ. -/
structure Block.SameOperands {W : Nat} (b c : Block W) : Prop where
  opa   : c.opa = b.opa
  opb   : c.opb = b.opb
  mod   : c.mod = b.mod
  bitw  : c.bitw = b.bitw
  ovr   : c.ovr = b.ovr
  latch : c.latch = b.latch

/-- c is b with a command in progress as before: nothing the host can see differs. -/
structure Block.GoesOn {W : Nat} (b c : Block W) : Prop extends b.SameOperands c where
  busy   : c.busy = true
  done   : c.done = b.done
  err    : c.err = b.err
  result : c.result = b.result

/-- c is b after the completion with the given code and RESULT (10_state.md R38): nothing else is written but hidden
working registers. -/
structure Block.EndsWith {W : Nat} (b c : Block W) (code : BitVec 3) (z : BitVec W) : Prop
    extends b.SameOperands c where
  busy   : c.busy = false
  done   : c.done = true
  err    : c.err = code
  result : c.result = z
  phase  : c.phase = .idle

/-- The same of two states of the machine: the host's program, the order of turns and what the host has read are the
same too. -/
structure SameButCompletion (s t : State) : Prop extends s.toBlock.SameOperands t.toBlock where
  prog     : t.prog = s.prog
  sched    : t.sched = s.sched
  returned : t.returned = s.returned

/-- t is s with a command in progress as before. -/
structure GoesOn (s t : State) : Prop extends SameButCompletion s t, s.toBlock.GoesOn t.toBlock

/-- t is s after the completion with the given code and RESULT (10_state.md R38). -/
structure EndsWith (s t : State) (code : BitVec 3) (z : Word) : Prop
    extends SameButCompletion s t, s.toBlock.EndsWith t.toBlock code z

/-- The command accepted in s runs: for some n, it is busy and shows no change to the host for the first n
micro-steps, and the next micro-step ends it with the given code and RESULT. -/
def CompletesWith (s : State) (code : BitVec 3) (z : Word) : Prop :=
  ∃ n, (∀ k, k ≤ n → GoesOn s (engineTicks k s)) ∧ EndsWith s (engineTicks (n + 1) s) code z

/-- The OP value of a command (30_encoding.md R71); NOCMD is no command and has none of its own. -/
def opOf (i : Instr) : BitVec 2 :=
  match i with
  | .monmul => 0b01
  | .modexp => 0b10
  | .reservedOp00 => 0b00
  | .reservedOp11 => 0b11
  | .nocmd => 0b00

/-- The completion code a command reports: the first that holds of INVALID_COMMAND, INVALID_MODULUS and
INVALID_BITWIDTH (60_exceptions.md R159), and 0 when none does. -/
def firstCode (i : Instr) (M m : Nat) : BitVec 3 :=
  if i = .reservedOp00 ∨ i = .reservedOp11 then 3
  else if M % 2 = 0 ∨ M ≤ 1 then 1
  else if i = .monmul ∧ m ≠ bitlen M then 4
  else 0

/-- s with the command of an OP value accepted (10_state.md R37): L.OP, L.A, L.B, L.M and L.m latched, BUSY ← 1,
DONE ← 0, ERR ← 000, OVR ← 0, phase ← CHECK, and nothing else written. -/
def State.accepted (s : State) (op : BitVec 2) : State :=
  { s with
    latch := { op := op, A := s.opa, B := s.opb, M := s.mod, m := s.bitw }
    busy := true
    done := false
    err := 0
    ovr := false
    phase := .check }

end Sys2Proof.Machine
end

