-- ==== Sys2Proof/Certificates/Slice0/Obligations.lean ====
section
/-! DEFINITION. The statements for the provers. Each docstring names the rule of spec/ its statement formalises. -/

open Sys2Proof
open Sys2Proof.Machine

/-! ## Encoding -/

/-- The CTRL values of 30_encoding.md (section 2, and the examples of R73) and 95_test_vectors.md §2.5 decode to the
commands they stand for, W = 32. -/
def Obligations.DecodeWordsOfTheSpec : Prop :=
  decode (0x3 : Word) = .monmul ∧ decode (0x5 : Word) = .modexp ∧ decode (0x1 : Word) = .reservedOp00 ∧
    decode (0x7 : Word) = .reservedOp11 ∧ decode (0xFFFFFFFB : Word) = .monmul ∧
    decode (0xFFFFFFFD : Word) = .modexp ∧ decode (0x9 : Word) = .reservedOp00 ∧
    decode (0xFFFFFFFF : Word) = .reservedOp11 ∧ decode (0x0 : Word) = .nocmd ∧ decode (0x2 : Word) = .nocmd ∧
    decode (0x8 : Word) = .nocmd

/-- 30_encoding.md R73: the decoding table, on every CTRL value, and bits [W-1:3] never change the result. -/
def Obligations.DecodeIsTotalOnTheLowThreeBits : Prop :=
  ∀ W, 8 ≤ W → ∀ v : BitVec W,
    (v.getLsbD 0 = false → decode v = .nocmd) ∧
    (v.getLsbD 0 = true → v.extractLsb' 1 2 = 0b01 → decode v = .monmul) ∧
    (v.getLsbD 0 = true → v.extractLsb' 1 2 = 0b10 → decode v = .modexp) ∧
    (v.getLsbD 0 = true → v.extractLsb' 1 2 = 0b00 → decode v = .reservedOp00) ∧
    (v.getLsbD 0 = true → v.extractLsb' 1 2 = 0b11 → decode v = .reservedOp11) ∧
    (∀ v' : BitVec W, v'.toNat % 8 = v.toNat % 8 → decode v' = decode v)

/-- Decoding is the opcode table read as mask and match, for every width, word and row. -/
def Obligations.DecodeMatchesOpcodeTable : Prop :=
  ∀ W, 8 ≤ W → ∀ (v : BitVec W) (i : Instr), decode v = i ↔ v.toNat &&& ctrlMask i = ctrlMatch i

/-- Decode and encode agree for every instruction, at every value of the bits its row does not fix; and every word of
the instruction is such an encoding, so no other bit is dropped. -/
def Obligations.DecodeEncodeAgree : Prop :=
  ∀ W, 8 ≤ W → ∀ i : Instr, i.wellFormed = true →
    (∀ x : BitVec W, x.toNat &&& ctrlMask i = 0 → decode (encode W i ||| x) = i) ∧
    (∀ v : BitVec W, decode v = i → ∃ x : BitVec W, x.toNat &&& ctrlMask i = 0 ∧ v = encode W i ||| x)

/-! ## Steps and host accesses -/

/-- In the host's turn, a step whose operation is a write to CTRL is exec of the decoded instruction, the operation
and the turn taken off; and a placed instruction word is run by the very next step. -/
def Obligations.StepRunsDecodedInstruction : Prop :=
  (∀ (s : State) (v : Word) (prog : List (HostOp Config.W)) (sched : List Turn), s.prog = .wr 0 v :: prog →
    s.sched = .host :: sched → step s = exec (decode v) { s with prog := prog, sched := sched }) ∧
  (∀ (s : State) (v : Word) (prog : List (HostOp Config.W)), s.prog = .wr 0 v :: prog → s.sched = [] →
    s.busy = false → step s = exec (decode v) { s with prog := prog }) ∧
  (∀ (s : State) (nbits w : Nat) (i : Instr), decodeTableWord nbits w = some i →
    step (s.withFetchWord nbits w) = exec i s)

/-- Which agent a step is (10_state.md R20): the next turn decides, and the turns used up, a busy engine moves on,
else the host, else nothing. The order after the turns is the model's own (log entry 6). -/
def Obligations.StepFollowsTheTurns : Prop :=
  (∀ (s : State) (k : Nat) (sched : List Turn), s.sched = .engine k :: sched →
    step s = .next (engineTicks k { s with sched := sched })) ∧
  (∀ (s : State) (sched : List Turn), s.sched = .host :: sched → s.prog = [] →
    step s = .next { s with sched := sched }) ∧
  (∀ s : State, s.sched = [] → s.busy = true → step s = .next (engineTick s)) ∧
  (∀ s : State, s.sched = [] → s.busy = false → s.prog = [] → step s = .next s) ∧
  (∀ (s : State) (k : Nat), s.busy = false → engineTicks k s = s)

/-- 20_memory.md R50: what a read of each index returns, and that it changes no state of the block. -/
def Obligations.RegisterReadValues : Prop :=
  ∀ (s : State) (i : BitVec 3) (prog : List (HostOp Config.W)) (sched : List Turn), s.prog = .rd i :: prog →
    s.sched = .host :: sched →
    ∃ v : Word,
      step s = .next { s with prog := prog, sched := sched, returned := (i, v) :: s.returned } ∧
      (i = 0 → v = 0) ∧
      (i = 1 → v = (BitVec.ofBool s.ovr ++ s.err ++ BitVec.ofBool s.done ++ BitVec.ofBool s.busy).setWidth Config.W) ∧
      (i = 2 → v = s.opa) ∧ (i = 3 → v = s.opb) ∧ (i = 4 → v = s.mod) ∧ (i = 5 → v = s.bitw) ∧
      (i = 6 → v = s.result) ∧ (i = 7 → v = 0)

/-- 20_memory.md R51 with 10_state.md R37: what a write to each index does, in every state; and a command in progress
does not see an operand write: its course stays the same but for the register written. -/
def Obligations.RegisterWriteEffects : Prop :=
  ∀ (s : State) (i : BitVec 3) (v : Word) (prog : List (HostOp Config.W)) (sched : List Turn),
    s.prog = .wr i v :: prog → s.sched = .host :: sched →
    ∃ s' t : State, s' = { s with prog := prog, sched := sched } ∧ step s = .next t ∧
      (i = 0 → v.getLsbD 0 = false → t = s') ∧
      (i = 0 → v.getLsbD 0 = true → s.busy = true → t = { s' with ovr := true }) ∧
      (i = 0 → v.getLsbD 0 = true → s.busy = false → t = s'.accepted (v.extractLsb' 1 2)) ∧
      (i = 1 → t = s') ∧ (i = 2 → t = { s' with opa := v }) ∧ (i = 3 → t = { s' with opb := v }) ∧
      (i = 4 → t = { s' with mod := v }) ∧ (i = 5 → t = { s' with bitw := v }) ∧ (i = 6 → t = s') ∧ (i = 7 → t = s') ∧
      (i = 2 ∨ i = 3 ∨ i = 4 ∨ i = 5 →
        ∀ k, (engineTicks k t).toBlock = (engineTicks k s').toBlock.writeSlot (Slot.ofIndex i) v)

/-- 10_state.md R22: OPA, OPB, MOD and BITW are plain storage. A write stores all W bits of any value and touches no
other slot; only a host write to the register and the reset event change it; so, however many other steps follow, a read
returns the last value written, or 0 if none was written since the reset; the engine never writes it. -/
def Obligations.OperandRegistersArePlainStorage : Prop :=
  ∀ i : BitVec 3, i = 2 ∨ i = 3 ∨ i = 4 ∨ i = 5 →
    (∀ (s : State) (v : Word), ∃ t, memWrite i v s = .next t ∧ t.toBlock.memRead i = v ∧
      ∀ j, j ≠ i → t.toBlock.memRead j = s.toBlock.memRead j) ∧
    (∀ s t : State, step s = .next t → ¬ s.ResetsNext → (∀ v, s.nextHostOp ≠ some (.wr i v)) →
      t.toBlock.memRead i = s.toBlock.memRead i) ∧
    (∀ (n : Nat) (run : Nat → State), (∀ k, k ≤ n → step (run k) = .next (run (k + 1))) →
      (∀ k, 1 ≤ k → k ≤ n → ¬ (run k).ResetsNext ∧ ∀ v, (run k).nextHostOp ≠ some (.wr i v)) →
      (∀ v, (run 0).nextHostOp = some (.wr i v) → (run (n + 1)).toBlock.memRead i = v) ∧
      ((run 0).ResetsNext → (run (n + 1)).toBlock.memRead i = 0)) ∧
    (∀ (s : State) (k : Nat), (engineTicks k s).toBlock.memRead i = s.toBlock.memRead i)

/-- 20_memory.md R56: reads have no side effects; operand writes are idempotent; a CTRL write with START = 1 is not;
a CTRL write with START = 0, and any write to STATUS, RESULT or slot 7, has no effect. -/
def Obligations.ReadsAndWritesAreIdempotent : Prop :=
  (∀ (s t : State) (i : BitVec 3), hostStep (.rd i) s = .next t →
    t.toBlock = s.toBlock ∧ t.toBlock.memRead i = s.toBlock.memRead i) ∧
  (∀ (s : State) (i : BitVec 3) (v : Word), i = 2 ∨ i = 3 ∨ i = 4 ∨ i = 5 →
    ∃ t, memWrite i v s = .next t ∧ memWrite i v t = .next t) ∧
  (∀ (s : State) (v : Word), v.getLsbD 0 = true → s.busy = false →
    ∃ t u, memWrite 0 v s = .next t ∧ t.busy = true ∧ memWrite 0 v t = .next u ∧ u = { t with ovr := true } ∧
      u ≠ t) ∧
  (∀ (s : State) (v : Word), v.getLsbD 0 = true → s.busy = true → memWrite 0 v s = .next { s with ovr := true }) ∧
  (∀ (s : State) (v : Word), v.getLsbD 0 = false → memWrite 0 v s = .next s) ∧
  (∀ (s : State) (i : BitVec 3) (v : Word), i = 1 ∨ i = 6 ∨ i = 7 → memWrite i v s = .next s)

/-- Every step answers a next state, from every state: no access traps (60_exceptions.md R164) and there is no stuck
state (70_reset_and_hazards.md R192). -/
def Obligations.EveryStepAnswersNext : Prop := ∀ s : State, SafeStep s

/-- A poll of `wait` reads STATUS and ends the wait exactly when DONE = 1 (30_encoding.md R77); issued when the engine is
idle and DONE = 0, no number of steps ends it, whatever turns without a reset are in store
(93_implementation_defined.md U14). That a poll is one host step is the model's choice (log entry 13). -/
def Obligations.WaitPollsUntilDone : Prop :=
  (∀ (s : State) (prog : List (HostOp Config.W)) (sched : List Turn), s.prog = .wait :: prog →
    s.sched = .host :: sched →
    step s = .next { s with
      prog := if s.done then prog else .wait :: prog
      sched := sched
      returned := (1, s.toBlock.memRead 1) :: s.returned }) ∧
  (∀ (n : Nat) (s : State) (prog : List (HostOp Config.W)), s.prog = .wait :: prog → .reset ∉ s.sched →
    s.busy = false → s.done = false →
    ∃ t : State, Host.Core.run Sys2Proof.core n s = .next t ∧ t.prog = .wait :: prog ∧ t.toBlock = s.toBlock)

/-! ## STATUS -/

/-- 10_state.md R32: the STATUS read value in every state of every build; the invariants in every reachable state;
the table of STATUS values; and that BUSY = 0 with DONE = 0 never comes back but by a reset. -/
def Obligations.StatusReadValue : Prop :=
  (∀ W, 8 ≤ W → ∀ b : Block W,
    (b.memRead 1).toNat = b.busy.toNat + 2 * b.done.toNat + 4 * b.err.toNat + 32 * b.ovr.toNat) ∧
  (∀ s : State, Reachable s →
    (s.busy = true → s.done = false ∧ s.err = 0) ∧
    (s.busy = false → s.done = false → (s.toBlock.memRead 1).toNat = 0) ∧
    (s.busy = true → (s.toBlock.memRead 1).toNat = if s.ovr then 33 else 1) ∧
    (s.done = true → s.err = 0 → (s.toBlock.memRead 1).toNat = if s.ovr then 34 else 2) ∧
    (s.done = true → s.err = 1 → (s.toBlock.memRead 1).toNat = if s.ovr then 38 else 6) ∧
    (s.done = true → s.err = 3 → (s.toBlock.memRead 1).toNat = if s.ovr then 46 else 14) ∧
    (s.done = true → s.err = 4 → (s.toBlock.memRead 1).toNat = if s.ovr then 50 else 18)) ∧
  (∀ s : State, s.toBlock.Clean → s.busy = false ∧ s.done = false) ∧
  (∀ s t : State, Reachable s → step s = .next t → ¬ s.ResetsNext → s.busy = true ∨ s.done = true →
    t.busy = true ∨ t.done = true)

/-- 10_state.md R28, R29, R30, R31: what sets and clears BUSY, DONE, ERR and OVR, and that nothing else writes
them. -/
def Obligations.StatusFieldWriters : Prop :=
  ∀ s t : State, s.toBlock.Inv → step s = .next t →
    (s.StartsNext → s.busy = false → t.busy = true ∧ t.done = false ∧ t.err = 0 ∧ t.ovr = false) ∧
    (s.StartsNext → s.busy = true → t.toBlock = { s.toBlock with ovr := true }) ∧
    (s.ResetsNext → t.busy = false ∧ t.done = false ∧ t.err = 0 ∧ t.ovr = false) ∧
    (s.EngineNext → t.ovr = s.ovr ∧
      ((t.busy = s.busy ∧ t.done = s.done ∧ t.err = s.err) ∨
        (s.busy = true ∧ t.busy = false ∧ t.done = true ∧ ∃ free, (s.latch.completion free).shownBy t.toBlock))) ∧
    (¬ s.StartsNext → ¬ s.ResetsNext → ¬ s.EngineNext →
      t.busy = s.busy ∧ t.done = s.done ∧ t.err = s.err ∧ t.ovr = s.ovr) ∧
    (t.busy = true → t.err = 0) ∧
    (t.err ≠ 2 ∧ t.err ≠ 5 ∧ t.err ≠ 6 ∧ t.err ≠ 7)

/-- The output signal `done` equals STATUS.DONE, bit [1] of the STATUS read value, in every state of every build
(10_state.md R33, R27). -/
def Obligations.DoneSignalIsStatusDone : Prop :=
  ∀ W, 8 ≤ W → ∀ b : Block W, b.doneSignal = (b.memRead 1).getLsbD 1

/-! ## Commands -/

/-- MONMUL inside the contract region (40_montgomery_multiply.md R94, R99): the command is accepted, and completes
with ERR = 0 and RESULT the one Z < M with Z·2^m ≡ X·Y (mod M); nothing else the host can see changes. -/
def Obligations.MonmulCompletesWithTheMontgomeryProduct : Prop :=
  ∀ s : State, s.busy = false → ContractRegion s.opa.toNat s.opb.toNat s.mod.toNat s.bitw.toNat →
    exec .monmul s = .next (s.accepted 0b01) ∧
    ∃ z : Word, CompletesWith (s.accepted 0b01) 0 z ∧ z.toNat < s.mod.toNat ∧
      z.toNat * 2 ^ s.bitw.toNat ≡ s.opa.toNat * s.opb.toNat [MOD s.mod.toNat]

/-- 60_exceptions.md R158: a MONMUL with X ≥ 2^m or Y ≥ 2^m completes with ERR = 0 and an unspecified RESULT. -/
def Obligations.MonmulOutsideTheContractCompletes : Prop :=
  ∀ s : State, s.busy = false → ValidModulus s.mod.toNat → s.bitw.toNat = bitlen s.mod.toNat →
    2 ^ s.bitw.toNat ≤ s.opa.toNat ∨ 2 ^ s.bitw.toNat ≤ s.opb.toNat →
    exec .monmul s = .next (s.accepted 0b01) ∧
    ∃ d, CompletesWith (s.accepted 0b01) 0 (Config.freeWord Config.W d)

/-- 60_exceptions.md R152: MONMUL and MODEXP raise INVALID_MODULUS when the latched modulus is even or at most 1, and
RESULT is unchanged; the check comes before any Montgomery product: the engine never enters the multiplier. -/
def Obligations.InvalidModulusRaised : Prop :=
  ∀ s : State, s.busy = false → s.mod.toNat % 2 = 0 ∨ s.mod.toNat ≤ 1 →
    (exec .monmul s = .next (s.accepted 0b01) ∧ CompletesWith (s.accepted 0b01) 1 s.result ∧
      ∀ k, (engineTicks k (s.accepted 0b01)).phase ≠ .mmIter ∧ (engineTicks k (s.accepted 0b01)).phase ≠ .mmFinal) ∧
    (exec .modexp s = .next (s.accepted 0b10) ∧ CompletesWith (s.accepted 0b10) 1 s.result ∧
      ∀ k, (engineTicks k (s.accepted 0b10)).phase ≠ .mmIter ∧ (engineTicks k (s.accepted 0b10)).phase ≠ .mmFinal)

/-- 60_exceptions.md R155: MONMUL raises INVALID_BITWIDTH when BITW ≠ bitlen(MOD) (the modulus valid), compared as a
number; MODEXP never raises it. -/
def Obligations.InvalidBitwidthRaisedByMonmulOnly : Prop :=
  (∀ s : State, s.busy = false → ValidModulus s.mod.toNat → s.bitw.toNat ≠ bitlen s.mod.toNat →
    exec .monmul s = .next (s.accepted 0b01) ∧ CompletesWith (s.accepted 0b01) 4 s.result) ∧
  (∀ (s : State) (k : Nat), s.busy = false → (engineTicks k (s.accepted 0b10)).err ≠ 4)

/-- 60_exceptions.md R154: a reserved OP with START = 1 is accepted and completes with INVALID_COMMAND, whatever the
operand registers hold and whatever bits [W-1:3] of the CTRL value are; RESULT and OVR are not written. From reset, the
write of 0x7 leads to STATUS = 14 and RESULT = 0. -/
def Obligations.ReservedCommandsRaiseInvalidCommand : Prop :=
  (∀ s : State, s.busy = false →
    (exec .reservedOp00 s = .next (s.accepted 0b00) ∧ CompletesWith (s.accepted 0b00) 3 s.result) ∧
    (exec .reservedOp11 s = .next (s.accepted 0b11) ∧ CompletesWith (s.accepted 0b11) 3 s.result)) ∧
  (∀ v : Word, v.getLsbD 0 = true →
    (v.extractLsb' 1 2 = 0b00 → decode v = .reservedOp00) ∧ (v.extractLsb' 1 2 = 0b11 → decode v = .reservedOp11)) ∧
  (∃ t n, memWrite 0 0x7 State.reset = .next t ∧ (engineTicks n t).busy = false ∧
    (engineTicks n t).toBlock.memRead 1 = 14 ∧ (engineTicks n t).toBlock.memRead 6 = 0)

/-- 60_exceptions.md R159: every command reports exactly one code, the first that holds of INVALID_COMMAND,
INVALID_MODULUS and INVALID_BITWIDTH. -/
def Obligations.CommandReportsTheFirstCode : Prop :=
  ∀ (s : State) (i : Instr), s.busy = false → i ≠ .nocmd →
    exec i s = .next (s.accepted (opOf i)) ∧
    ∃ z, CompletesWith (s.accepted (opOf i)) (firstCode i s.mod.toNat s.bitw.toNat) z ∧
      (firstCode i s.mod.toNat s.bitw.toNat ≠ 0 → z = s.result)

/-- 41_modular_exponentiation.md R129: for every base and exponent and every valid modulus, MODEXP completes with
base^exponent mod M (0^0 = 1). The value is stated for every width, the command for the build W = 32. -/
def Obligations.ModexpComputesThePower : Prop :=
  (∀ s : State, s.busy = false → ValidModulus s.mod.toNat →
    exec .modexp s = .next (s.accepted 0b10) ∧
    ∃ z : Word, CompletesWith (s.accepted 0b10) 0 z ∧ z.toNat = s.opa.toNat ^ s.opb.toNat % s.mod.toNat) ∧
  (∀ base exponent M : Nat, ValidModulus M → modExp base exponent M = base ^ exponent % M) ∧ modExp 0 0 3 = 1

/-- A CTRL write with START = 0 has no effect, busy or not (10_state.md R37; 30_encoding.md R74): only the host's
program and the turns move on. -/
def Obligations.NocmdHasNoEffect : Prop :=
  (∀ s : State, exec .nocmd s = .next s) ∧
  (∀ (s : State) (v : Word) (prog : List (HostOp Config.W)) (sched : List Turn), s.prog = .wr 0 v :: prog →
    s.sched = .host :: sched → v.getLsbD 0 = false → step s = .next { s with prog := prog, sched := sched })

/-- 60_exceptions.md R157: a START while BUSY = 1 sets OVR and changes nothing else, and does not affect the running
command, its result or its ERR code. -/
def Obligations.StartWhileBusyIsDropped : Prop :=
  ∀ (s : State) (i : Instr), s.busy = true → i ≠ .nocmd →
    exec i s = .next { s with ovr := true } ∧
    ∀ k, engineTicks k { s with ovr := true } = { engineTicks k s with ovr := true }

/-! ## The engine -/

/-- Every micro-step of a busy engine either writes nothing the host can see, or is the completion that the command's
pseudocode, evaluated from the latch alone, gives (10_state.md R38 to R40; 40_montgomery_multiply.md R99, R103;
41_modular_exponentiation.md R128, R135): the engine refines the collapsed model. The free value is the one of the
draw the micro-step stands at (log entry 1). -/
def Obligations.EngineRefinesTheReference : Prop :=
  ∀ s : State, s.toBlock.Inv → s.busy = true →
    GoesOn s (engineTick s) ∨
    (∃ z, s.latch.completion (Config.freeWord Config.W s.draws) = .ok z ∧ EndsWith s (engineTick s) 0 z) ∨
    (∃ e, s.latch.completion (Config.freeWord Config.W s.draws) = .error e ∧
      EndsWith s (engineTick s) e.code s.result)

/-- The same refinement in every build W ≥ 8 (00_scope.md R8), for the block alone, and the invariant kept: a micro-step
either leaves everything the host can see, or is the completion of the command's pseudocode, which writes BUSY, DONE,
ERR, phase and, on success only, RESULT. -/
def Obligations.BlockRefinesTheReferenceAtEveryWidth : Prop :=
  ∀ W, 8 ≤ W → ∀ (b : Block W) (free : BitVec W), b.Inv → b.busy = true →
    (b.tick free).Inv ∧
    (b.GoesOn (b.tick free) ∨
      (∃ z, b.latch.completion free = .ok z ∧ b.EndsWith (b.tick free) 0 z) ∨
      (∃ e, b.latch.completion free = .error e ∧ b.EndsWith (b.tick free) e.code b.result))

/-- 60_exceptions.md R150: every accepted command completes exactly once, and a completion is either a success or
one error code with RESULT unchanged. -/
def Obligations.CommandCompletesExactlyOnce : Prop :=
  ∀ (s : State) (i : Instr), s.busy = false → i ≠ .nocmd →
    exec i s = .next (s.accepted (opOf i)) ∧
    ∃ (n : Nat) (t : State), t = engineTicks n (s.accepted (opOf i)) ∧
      (∀ k, k < n → (engineTicks k (s.accepted (opOf i))).busy = true ∧
        (engineTicks k (s.accepted (opOf i))).done = false) ∧
      (∀ k, n ≤ k → engineTicks k (s.accepted (opOf i)) = t) ∧ t.busy = false ∧ t.done = true ∧
      ((t.err = 0 ∧ ∃ free, (s.accepted (opOf i)).latch.completion free = .ok t.result) ∨
        (t.err ≠ 0 ∧ t.result = s.result))

/-- A command in progress, from any state that meets the invariant, completes after finitely many micro-steps
(70_reset_and_hazards.md R192; 10_state.md R39). -/
def Obligations.EveryCommandTerminates : Prop :=
  ∀ s : State, s.toBlock.Inv → s.busy = true → ∃ n, (engineTicks n s).busy = false ∧ (engineTicks n s).done = true

/-- How many micro-steps the model's reference sequencing takes for a successful MODEXP: CHECK, PARAM and REDUCE, and
for each of the 3 + bitlen(exponent) + popcount(exponent) Montgomery products (41_modular_exponentiation.md R130) one
step to enter it, m iterations and one final step (70_reset_and_hazards.md R190). The counts are informative in the
spec and the model's own (log entries 7, 17). -/
def Obligations.ModexpMicroStepCount : Prop :=
  ∀ s : State, s.busy = false → ValidModulus s.mod.toNat →
    (∀ k, k < 3 + modExpCalls s.opb.toNat * (bitlen s.mod.toNat + 2) →
      (engineTicks k (s.accepted 0b10)).busy = true) ∧
    (engineTicks (3 + modExpCalls s.opb.toNat * (bitlen s.mod.toNat + 2)) (s.accepted 0b10)).busy = false

/-- 60_exceptions.md R160: an error completion changes exactly BUSY, DONE, ERR (to the command's code) and phase. (The
free-value counter, the model's own field, moves with every micro-step: log entry 1.) -/
def Obligations.ErrorCompletionChangesOnlyStatus : Prop :=
  ∀ s : State, s.busy = true → (engineTick s).busy = false → (engineTick s).err ≠ 0 →
    ∃ e : CommandError, (∀ free, s.latch.completion free = .error e) ∧
      engineTick s = { s with
        busy := false
        done := true
        err := e.code
        phase := .idle
        draws := s.draws + 1 }

/-- 20_memory.md R62: a command sees every operand write before its accept (the accept latches the registers as they
stand), and none after it: whatever is written to the operand registers while it runs, its course, its RESULT and its
STATUS are the same. -/
def Obligations.RunningCommandIgnoresOperandWrites : Prop :=
  (∀ (s : State) (i : Instr), s.busy = false → i ≠ .nocmd →
    ∃ t, exec i s = .next t ∧ t.latch.A = s.opa ∧ t.latch.B = s.opb ∧ t.latch.M = s.mod ∧ t.latch.m = s.bitw) ∧
  (∀ (s : State) (a b M m : Word) (k : Nat),
    engineTicks k { s with opa := a, opb := b, mod := M, bitw := m } =
      { engineTicks k s with opa := a, opb := b, mod := M, bitw := m })

/-- 41_modular_exponentiation.md R134: nothing carries from one command to the next. Two MODEXPs with the same operand
registers end with the same code and the same result, whatever the rest of the two states holds; and so do two of any
other command, but for the RESULT of a MONMUL outside the contract, which is a free value. -/
def Obligations.NothingCarriesFromCommandToCommand : Prop :=
  ∀ s s' : State, s.busy = false → s'.busy = false → s'.opa = s.opa → s'.opb = s.opb → s'.mod = s.mod →
    (∃ code z z', CompletesWith (s.accepted 0b10) code z ∧ CompletesWith (s'.accepted 0b10) code z' ∧
      (code = 0 → z' = z) ∧ (code ≠ 0 → z = s.result ∧ z' = s'.result)) ∧
    (s'.bitw = s.bitw → ∀ i, i ≠ .nocmd →
      ∃ code z z', CompletesWith (s.accepted (opOf i)) code z ∧ CompletesWith (s'.accepted (opOf i)) code z' ∧
        (code = 0 → (i = .monmul → s.opa.toNat < 2 ^ s.bitw.toNat ∧ s.opb.toNat < 2 ^ s.bitw.toNat) → z' = z) ∧
        (code ≠ 0 → z = s.result ∧ z' = s'.result))

/-- 10_state.md R23: RESULT is written only by a successful completion, and then holds the Z of that command (and by
reset, to 0); an error completion leaves it; a host write to it is ignored. -/
def Obligations.ResultWrittenOnlyBySuccess : Prop :=
  (∀ s t : State, s.toBlock.Inv → step s = .next t →
    (s.ResetsNext → t.result = 0) ∧
    (¬ s.ResetsNext → t.result ≠ s.result → s.busy = true ∧ t.done = true ∧ t.err = 0) ∧
    (¬ s.ResetsNext → s.busy = true → t.busy = false → t.err = 0 →
      ∃ free, s.latch.completion free = .ok t.result) ∧
    (¬ s.ResetsNext → s.busy = true → t.busy = false → t.err ≠ 0 → t.result = s.result)) ∧
  (∀ (s : State) (v : Word), memWrite 6 v s = .next s)

/-- Once DONE = 1, the RESULT and ERR that the completion wrote stay for the host to read until the next accept or a
reset (20_memory.md R59): only an accept can lead to another completion. -/
def Obligations.CompletedResultIsStable : Prop :=
  ∀ s t : State, s.toBlock.StatusInv → step s = .next t → ¬ s.ResetsNext → s.done = true → t.done = true →
    t.result = s.result ∧ t.err = s.err ∧ t.latch = s.latch

/-! ## Invariants -/

/-- The invariant holds at reset, and in every clean state of every build, whatever its hidden registers hold. -/
def Obligations.ResetMeetsTheInvariant : Prop :=
  State.reset.toBlock.Inv ∧ ∀ W, 8 ≤ W → ∀ b : Block W, b.Clean → b.Inv

/-- Every step, from every state that meets the invariant, keeps it: the STATUS rules (10_state.md R32, R36;
60_exceptions.md R156), the working registers on the reference sequencing, and RESULT showing the latched command's
completion once DONE = 1. -/
def Obligations.StepKeepsTheInvariant : Prop :=
  ∀ s t : State, s.toBlock.Inv → step s = .next t → t.toBlock.Inv

/-- 60_exceptions.md R156: ERR ∈ {0, 1, 3, 4} in every reachable state. -/
def Obligations.ErrCodesOfReachableStates : Prop :=
  ∀ s : State, Reachable s → s.err = 0 ∨ s.err = 1 ∨ s.err = 3 ∨ s.err = 4

/-- In every reachable state with DONE = 1 and ERR = 0, RESULT is right for the latched command: the power for a
MODEXP, the Montgomery product for a MONMUL inside the contract; and no other command ends so. -/
def Obligations.DoneWithoutErrorMeansRightResult : Prop :=
  ∀ s : State, Reachable s → s.done = true → s.err = 0 →
    ValidModulus s.latch.M.toNat ∧
    ((s.latch.op = 0b10 ∧ s.result.toNat = s.latch.A.toNat ^ s.latch.B.toNat % s.latch.M.toNat) ∨
      (s.latch.op = 0b01 ∧ s.latch.m.toNat = bitlen s.latch.M.toNat ∧
        (s.latch.A.toNat < 2 ^ s.latch.m.toNat → s.latch.B.toNat < 2 ^ s.latch.m.toNat →
          s.result.toNat < s.latch.M.toNat ∧
          s.result.toNat * 2 ^ s.latch.m.toNat ≡ s.latch.A.toNat * s.latch.B.toNat [MOD s.latch.M.toNat])))

/-- 41_modular_exponentiation.md R131: every MonMul call of a MODEXP, in every reachable state, is in the contract
region: its modulus is the latched one, its operands are among b, RR, 1, acc and bs, and each is below M < 2^m. -/
def Obligations.ModexpCallsStayInTheContract : Prop :=
  ∀ s : State, Reachable s → s.latch.op = 0b10 → s.phase = .mmIter ∨ s.phase = .mmFinal →
    ContractRegion s.mul.X.toNat s.mul.Y.toNat s.mul.M.toNat s.mul.m.toNat ∧
    s.mul.M = s.latch.M ∧ s.mul.X.toNat < s.mul.M.toNat ∧ s.mul.Y.toNat < s.mul.M.toNat ∧
    s.mul.M.toNat < 2 ^ s.mul.m.toNat ∧
    (s.mul.X = s.ex.b ∨ s.mul.X = 1 ∨ s.mul.X = s.ex.acc ∨ s.mul.X = s.ex.bs) ∧
    (s.mul.Y = s.ex.RR ∨ s.mul.Y = s.ex.bs ∨ s.mul.Y = 1)

/-! ## Reset -/

/-- 10_state.md R42: after the reset event, from any state, every register reads 0, `done` is 0 and phase is IDLE; and
`State.reset` is such a state. (The hidden registers are unspecified there and nothing is said of them.) -/
def Obligations.ResetValues : Prop :=
  State.reset.toBlock.Clean ∧
  ∀ (s : State) (sched : List Turn), s.sched = .reset :: sched →
    ∃ t, step s = .next t ∧ t.toBlock.Clean ∧ (∀ i, t.toBlock.memRead i = 0) ∧ t.toBlock.doneSignal = false ∧
      t.phase = .idle

/-- 70_reset_and_hazards.md R182: a reset while BUSY = 1 aborts the running command: it never completes, its result
and its code are lost, and the host sees STATUS = 0. -/
def Obligations.ResetAbortsTheRunningCommand : Prop :=
  ∀ (s : State) (sched : List Turn), s.busy = true → s.sched = .reset :: sched →
    ∃ t, step s = .next t ∧ t.toBlock.memRead 1 = 0 ∧ t.busy = false ∧ t.done = false ∧ t.err = 0 ∧ t.result = 0 ∧
      ∀ k, engineTicks k t = t

/-! ## Arithmetic -/

/-- 40_montgomery_multiply.md R94, the contract: in the contract region MonMul is the unique Z in [0, M) with
Z ≡ X·Y·inv(2^m, M) (mod M). -/
def Obligations.MonMulMeetsTheContract : Prop :=
  ∀ X Y M m : Nat, ContractRegion X Y M m →
    (∃ r, 2 ^ m * r ≡ 1 [MOD M]) ∧
    ∀ r, 2 ^ m * r ≡ 1 [MOD M] → ∀ z, z < M ∧ z ≡ X * Y * r [MOD M] ↔ z = monMul X Y M m

/-- 40_montgomery_multiply.md R92: for odd M the pre-shift sum of every iteration is even, so the shift drops no
bit. -/
def Obligations.PreShiftSumIsEven : Prop :=
  ∀ X Y M k : Nat, M % 2 = 1 →
    monSum Y M (monLoop X Y M k) (X.testBit k) % 2 = 0 ∧
    2 * (monSum Y M (monLoop X Y M k) (X.testBit k) >>> 1) = monSum Y M (monLoop X Y M k) (X.testBit k)

/-- 40_montgomery_multiply.md R95: the accumulator bounds inside the contract region. -/
def Obligations.AccumulatorBounds : Prop :=
  ∀ X Y M m : Nat, ContractRegion X Y M m →
    (∀ k, k < m →
      monLoop X Y M k < M ∧
      monSum Y M (monLoop X Y M k) (X.testBit k) ≤ 4 * M - 4 ∧
      monSum Y M (monLoop X Y M k) (X.testBit k) >>> 1 < 2 * M ∧
      monSum Y M (monLoop X Y M k) (X.testBit k) >>> 1 < 2 ^ (m + 1) ∧
      monLoop X Y M (k + 1) < M) ∧
    subOnce M (monLoop X Y M m) = monLoop X Y M m

/-- 40_montgomery_multiply.md R96: for every input the W+2-bit adder, the W+1-bit T register and the W-bit result
truncate nothing, so the pseudocode values are the register values. -/
def Obligations.DatapathNeverTruncates : Prop :=
  ∀ W, 8 ≤ W → ∀ (X Y M : BitVec W) (m : BitVec (counterWidth W)), M.toNat % 2 = 1 → 3 ≤ M.toNat → 1 ≤ m.toNat →
    m.toNat ≤ W →
    (∀ k, k ≤ m.toNat → monLoop X.toNat Y.toNat M.toNat k < Y.toNat + M.toNat) ∧
    (∀ k, k < m.toNat → monSum Y.toNat M.toNat (monLoop X.toNat Y.toNat M.toNat k) (X.toNat.testBit k) <
      2 * (Y.toNat + M.toNat)) ∧
    2 * (Y.toNat + M.toNat) < 2 ^ (W + 2) ∧
    monMul X.toNat Y.toNat M.toNat m.toNat < max M.toNat Y.toNat ∧ max M.toNat Y.toNat ≤ 2 ^ W - 1 ∧
    (∀ k, k ≤ m.toNat →
      (Multiplier.iterate^[k] { T := 0, i := 0, X := X, Y := Y, M := M, m := m }).T.toNat =
        monLoop X.toNat Y.toNat M.toNat k) ∧
    ((Multiplier.iterate^[m.toNat] { T := 0, i := 0, X := X, Y := Y, M := M, m := m }).subM.T.setWidth W).toNat =
      monMul X.toNat Y.toNat M.toNat m.toNat

/-- 41_modular_exponentiation.md R120: bitlen(M) is the smallest m with 2^m > M, ⌈log2(M+1)⌉ and the count of the
shift loop; for a valid modulus 2 ≤ m ≤ W and 2^(m−1) < M < 2^m. -/
def Obligations.BitlenIsTheSmallestWidth : Prop :=
  (∀ M n : Nat, bitlen M ≤ n ↔ M < 2 ^ n) ∧
  (∀ M : Nat, bitlen M = Nat.clog 2 (M + 1)) ∧
  (∀ M : Nat, bitlen M = if M = 0 then 0 else bitlen (M >>> 1) + 1) ∧
  (∀ W M : Nat, ValidModulus M → M < 2 ^ W →
    2 ≤ bitlen M ∧ bitlen M ≤ W ∧ 2 ^ (bitlen M - 1) < M ∧ M < 2 ^ bitlen M)

/-- 41_modular_exponentiation.md R121: for a valid modulus M < 2^m < 2M, Rm = 2^m − M exactly, 1 ≤ Rm < M, and R is
coprime to M. -/
def Obligations.RadixResidueNeedsOneSubtraction : Prop :=
  ∀ M : Nat, ValidModulus M →
    M < 2 ^ bitlen M ∧ 2 ^ bitlen M < 2 * M ∧ radixResidue M = 2 ^ bitlen M % M ∧
    radixResidue M = 2 ^ bitlen M - M ∧ 1 ≤ radixResidue M ∧ radixResidue M < M ∧ Nat.gcd (2 ^ bitlen M) M = 1

/-- 41_modular_exponentiation.md R122: RR = Rm² mod M < M, its square fits 2W bits, and m modular doublings of Rm,
each in W+1 bits, reach it. -/
def Obligations.RadixSquareByDoublings : Prop :=
  ∀ W M : Nat, ValidModulus M → M < 2 ^ W →
    radixSquare M = radixResidue M ^ 2 % M ∧ radixSquare M < M ∧ radixResidue M ^ 2 < 2 ^ (2 * W) ∧
    (fun v => subOnce M (2 * v))^[bitlen M] (radixResidue M) = radixSquare M ∧
    ∀ k, 2 * (fun v => subOnce M (2 * v))^[k] (radixResidue M) < 2 ^ (W + 1)

/-- 40_montgomery_multiply.md R102: the domain conversions with MonMul, and the worked example by two MONMUL
commands. -/
def Obligations.DomainConversions : Prop :=
  (∀ M a b : Nat, ValidModulus M → a < M → b < M →
    monMul a (radixSquare M) M (bitlen M) = a * radixResidue M % M ∧
    (∀ r, radixResidue M * r ≡ 1 [MOD M] → monMul a 1 M (bitlen M) = a * r % M) ∧
    monMul (monMul a b M (bitlen M)) (radixSquare M) M (bitlen M) = a * b % M) ∧
  radixSquare 23 = 12 ∧ 17 * 22 % 23 = 6 ∧
  (∀ s : State, s.busy = false → s.mod = 23 → s.bitw = 5 →
    (s.opa = 17 → s.opb = 22 →
      exec .monmul s = .next (s.accepted 0b01) ∧ CompletesWith (s.accepted 0b01) 0 16) ∧
    (s.opa = 16 → s.opb = 12 →
      exec .monmul s = .next (s.accepted 0b01) ∧ CompletesWith (s.accepted 0b01) 0 6))

/-- The values of the conversions before the loop (41_modular_exponentiation.md, section 2): the reduced base lies
below M and converts to b·Rm mod M; for a base below 2^m the reduction changes no result; and the Montgomery-domain one
is Rm. -/
def Obligations.BaseReductionAndMontgomeryOne : Prop :=
  ∀ M base : Nat, ValidModulus M →
    base % M < M ∧
    monMul (base % M) (radixSquare M) M (bitlen M) = base * radixResidue M % M ∧
    (base < 2 ^ bitlen M →
      monMul base (radixSquare M) M (bitlen M) = monMul (base % M) (radixSquare M) M (bitlen M)) ∧
    monMul 1 (radixSquare M) M (bitlen M) = radixResidue M

/-- 41_modular_exponentiation.md R133: conversion into the Montgomery domain and back returns the value. -/
def Obligations.ConversionRoundTrip : Prop :=
  ∀ M v : Nat, ValidModulus M → v < M → monMul (monMul v (radixSquare M) M (bitlen M)) 1 M (bitlen M) = v

/-- 41_modular_exponentiation.md R126: after k iterations acc ≡ b^(exponent mod 2^k)·Rm and bs ≡ b^(2^k)·Rm (mod M),
both in [0, M), as long as the loop runs; it ends after exactly bitlen(exponent) iterations, at most W. -/
def Obligations.SquareAndMultiplyLoop : Prop :=
  ∀ M b e : Nat, ValidModulus M → b < M →
    ∃ acc0 bs0, acc0 = monMul 1 (radixSquare M) M (bitlen M) ∧ bs0 = monMul b (radixSquare M) M (bitlen M) ∧
      (∀ k, k ≤ bitlen e → ∃ acc bs, expAfter M (bitlen M) e acc0 bs0 k = (e >>> k, acc, bs) ∧
        acc ≡ b ^ (e % 2 ^ k) * radixResidue M [MOD M] ∧ bs ≡ b ^ 2 ^ k * radixResidue M [MOD M] ∧ acc < M ∧
        bs < M) ∧
      (∀ k, k < bitlen e → e >>> k ≠ 0) ∧ e >>> bitlen e = 0 ∧ (∀ W, e < 2 ^ W → bitlen e ≤ W) ∧
      (expAfter M (bitlen M) e acc0 bs0 (bitlen e)).2.1 = expLoop M (bitlen M) (bitlen e) e acc0 bs0

/-! ## The end of a run -/

/-- The end of a run (70_reset_and_hazards.md, section 5). A command run ends with BUSY = 0 and DONE = 1, and a reset
that interrupts it leaves it no end. A host program has at most one end state, which no step without a reset changes;
one that ends while BUSY = 1, that a reset interrupts, or that waits when DONE can never become 1, has none. That a reset
leaves the whole host program no end, and not the command's run only, is the model's choice (log entry 20). -/
def Obligations.EndOfARun : Prop :=
  (∀ s t : State, s.toBlock.Inv → CommandRun s t → t.busy = false ∧ t.done = true) ∧
  (∀ s a u : State, s.busy = false → step s = .next a →
    RunsWhile (fun v => v.busy = true ∧ ¬ v.ResetsNext) a u → u.busy = true → u.ResetsNext → ¬ ∃ t, CommandRun s t) ∧
  (∀ s t t' : State, s.Ended t → s.Ended t' → t' = t) ∧
  (∀ s t u : State, s.Ended t → Runs t u → u.toBlock = t.toBlock) ∧
  (∀ s u t : State, Runs s u → u.LastHostStep t → t.busy = true → ¬ ∃ t', s.Ended t') ∧
  (∀ s u : State, Runs s u → u.prog ≠ [] → u.ResetsNext → ¬ ∃ t, s.Ended t) ∧
  (∀ (s : State) (prog : List (HostOp Config.W)), s.prog = .wait :: prog → s.busy = false → s.done = false →
    ¬ ∃ t, s.Ended t)
end

