-- ==== Sys2Proof/Laws/State.lean ====
section
/-! SUPPORT. One lemma per field per update of the block and of the state, so that no later proof unfolds a record
update. -/

namespace Sys2Proof.Machine

variable {W : Nat} (b : Block W) (s : State)

@[simp] theorem Block.statusAccept_opa : (b.statusAccept).opa = b.opa := rfl
@[simp] theorem Block.statusAccept_opb : (b.statusAccept).opb = b.opb := rfl
@[simp] theorem Block.statusAccept_mod : (b.statusAccept).mod = b.mod := rfl
@[simp] theorem Block.statusAccept_bitw : (b.statusAccept).bitw = b.bitw := rfl
@[simp] theorem Block.statusAccept_result : (b.statusAccept).result = b.result := rfl
@[simp] theorem Block.statusAccept_busy : (b.statusAccept).busy = true := rfl
@[simp] theorem Block.statusAccept_done : (b.statusAccept).done = false := rfl
@[simp] theorem Block.statusAccept_err : (b.statusAccept).err = 0 := rfl
@[simp] theorem Block.statusAccept_ovr : (b.statusAccept).ovr = false := rfl
@[simp] theorem Block.statusAccept_latch : (b.statusAccept).latch = b.latch := rfl
@[simp] theorem Block.statusAccept_mul : (b.statusAccept).mul = b.mul := rfl
@[simp] theorem Block.statusAccept_ex : (b.statusAccept).ex = b.ex := rfl
@[simp] theorem Block.statusAccept_phase : (b.statusAccept).phase = b.phase := rfl
@[simp] theorem Block.statusAccept_caller : (b.statusAccept).caller = b.caller := rfl

@[simp] theorem Block.statusComplete_opa (c : BitVec 3) : (b.statusComplete c).opa = b.opa := rfl
@[simp] theorem Block.statusComplete_opb (c : BitVec 3) : (b.statusComplete c).opb = b.opb := rfl
@[simp] theorem Block.statusComplete_mod (c : BitVec 3) : (b.statusComplete c).mod = b.mod := rfl
@[simp] theorem Block.statusComplete_bitw (c : BitVec 3) : (b.statusComplete c).bitw = b.bitw := rfl
@[simp] theorem Block.statusComplete_result (c : BitVec 3) : (b.statusComplete c).result = b.result := rfl
@[simp] theorem Block.statusComplete_busy (c : BitVec 3) : (b.statusComplete c).busy = false := rfl
@[simp] theorem Block.statusComplete_done (c : BitVec 3) : (b.statusComplete c).done = true := rfl
@[simp] theorem Block.statusComplete_err (c : BitVec 3) : (b.statusComplete c).err = c := rfl
@[simp] theorem Block.statusComplete_ovr (c : BitVec 3) : (b.statusComplete c).ovr = b.ovr := rfl
@[simp] theorem Block.statusComplete_latch (c : BitVec 3) : (b.statusComplete c).latch = b.latch := rfl
@[simp] theorem Block.statusComplete_mul (c : BitVec 3) : (b.statusComplete c).mul = b.mul := rfl
@[simp] theorem Block.statusComplete_ex (c : BitVec 3) : (b.statusComplete c).ex = b.ex := rfl
@[simp] theorem Block.statusComplete_phase (c : BitVec 3) : (b.statusComplete c).phase = b.phase := rfl
@[simp] theorem Block.statusComplete_caller (c : BitVec 3) : (b.statusComplete c).caller = b.caller := rfl

@[simp] theorem Block.statusOverrun_opa : (b.statusOverrun).opa = b.opa := rfl
@[simp] theorem Block.statusOverrun_opb : (b.statusOverrun).opb = b.opb := rfl
@[simp] theorem Block.statusOverrun_mod : (b.statusOverrun).mod = b.mod := rfl
@[simp] theorem Block.statusOverrun_bitw : (b.statusOverrun).bitw = b.bitw := rfl
@[simp] theorem Block.statusOverrun_result : (b.statusOverrun).result = b.result := rfl
@[simp] theorem Block.statusOverrun_busy : (b.statusOverrun).busy = b.busy := rfl
@[simp] theorem Block.statusOverrun_done : (b.statusOverrun).done = b.done := rfl
@[simp] theorem Block.statusOverrun_err : (b.statusOverrun).err = b.err := rfl
@[simp] theorem Block.statusOverrun_ovr : (b.statusOverrun).ovr = true := rfl
@[simp] theorem Block.statusOverrun_latch : (b.statusOverrun).latch = b.latch := rfl
@[simp] theorem Block.statusOverrun_mul : (b.statusOverrun).mul = b.mul := rfl
@[simp] theorem Block.statusOverrun_ex : (b.statusOverrun).ex = b.ex := rfl
@[simp] theorem Block.statusOverrun_phase : (b.statusOverrun).phase = b.phase := rfl
@[simp] theorem Block.statusOverrun_caller : (b.statusOverrun).caller = b.caller := rfl

@[simp] theorem Block.accept_opa (op : BitVec 2) : (b.accept op).opa = b.opa := rfl
@[simp] theorem Block.accept_opb (op : BitVec 2) : (b.accept op).opb = b.opb := rfl
@[simp] theorem Block.accept_mod (op : BitVec 2) : (b.accept op).mod = b.mod := rfl
@[simp] theorem Block.accept_bitw (op : BitVec 2) : (b.accept op).bitw = b.bitw := rfl
@[simp] theorem Block.accept_result (op : BitVec 2) : (b.accept op).result = b.result := rfl
@[simp] theorem Block.accept_busy (op : BitVec 2) : (b.accept op).busy = true := rfl
@[simp] theorem Block.accept_done (op : BitVec 2) : (b.accept op).done = false := rfl
@[simp] theorem Block.accept_err (op : BitVec 2) : (b.accept op).err = 0 := rfl
@[simp] theorem Block.accept_ovr (op : BitVec 2) : (b.accept op).ovr = false := rfl
@[simp] theorem Block.accept_latch (op : BitVec 2) :
    (b.accept op).latch = b.latchOperands op := rfl
@[simp] theorem Block.accept_mul (op : BitVec 2) : (b.accept op).mul = b.mul := rfl
@[simp] theorem Block.accept_ex (op : BitVec 2) : (b.accept op).ex = b.ex := rfl
@[simp] theorem Block.accept_phase (op : BitVec 2) : (b.accept op).phase = .check := rfl
@[simp] theorem Block.accept_caller (op : BitVec 2) : (b.accept op).caller = b.caller := rfl

@[simp] theorem Block.completeOk_opa (z : BitVec W) : (b.completeOk z).opa = b.opa := rfl
@[simp] theorem Block.completeOk_opb (z : BitVec W) : (b.completeOk z).opb = b.opb := rfl
@[simp] theorem Block.completeOk_mod (z : BitVec W) : (b.completeOk z).mod = b.mod := rfl
@[simp] theorem Block.completeOk_bitw (z : BitVec W) : (b.completeOk z).bitw = b.bitw := rfl
@[simp] theorem Block.completeOk_result (z : BitVec W) : (b.completeOk z).result = z := rfl
@[simp] theorem Block.completeOk_busy (z : BitVec W) : (b.completeOk z).busy = false := rfl
@[simp] theorem Block.completeOk_done (z : BitVec W) : (b.completeOk z).done = true := rfl
@[simp] theorem Block.completeOk_err (z : BitVec W) : (b.completeOk z).err = 0 := rfl
@[simp] theorem Block.completeOk_ovr (z : BitVec W) : (b.completeOk z).ovr = b.ovr := rfl
@[simp] theorem Block.completeOk_latch (z : BitVec W) : (b.completeOk z).latch = b.latch := rfl
@[simp] theorem Block.completeOk_mul (z : BitVec W) : (b.completeOk z).mul = b.mul := rfl
@[simp] theorem Block.completeOk_ex (z : BitVec W) : (b.completeOk z).ex = b.ex := rfl
@[simp] theorem Block.completeOk_phase (z : BitVec W) : (b.completeOk z).phase = .idle := rfl
@[simp] theorem Block.completeOk_caller (z : BitVec W) : (b.completeOk z).caller = b.caller := rfl

@[simp] theorem Block.raiseError_opa (e : CommandError) : (b.raiseError e).opa = b.opa := rfl
@[simp] theorem Block.raiseError_opb (e : CommandError) : (b.raiseError e).opb = b.opb := rfl
@[simp] theorem Block.raiseError_mod (e : CommandError) : (b.raiseError e).mod = b.mod := rfl
@[simp] theorem Block.raiseError_bitw (e : CommandError) : (b.raiseError e).bitw = b.bitw := rfl
@[simp] theorem Block.raiseError_result (e : CommandError) : (b.raiseError e).result = b.result := rfl
@[simp] theorem Block.raiseError_busy (e : CommandError) : (b.raiseError e).busy = false := rfl
@[simp] theorem Block.raiseError_done (e : CommandError) : (b.raiseError e).done = true := rfl
@[simp] theorem Block.raiseError_err (e : CommandError) : (b.raiseError e).err = e.code := rfl
@[simp] theorem Block.raiseError_ovr (e : CommandError) : (b.raiseError e).ovr = b.ovr := rfl
@[simp] theorem Block.raiseError_latch (e : CommandError) : (b.raiseError e).latch = b.latch := rfl
@[simp] theorem Block.raiseError_mul (e : CommandError) : (b.raiseError e).mul = b.mul := rfl
@[simp] theorem Block.raiseError_ex (e : CommandError) : (b.raiseError e).ex = b.ex := rfl
@[simp] theorem Block.raiseError_phase (e : CommandError) : (b.raiseError e).phase = .idle := rfl
@[simp] theorem Block.raiseError_caller (e : CommandError) : (b.raiseError e).caller = b.caller := rfl

@[simp] theorem Block.startMonMul_opa (c : Caller) (X Y M : BitVec W) (m : BitVec (counterWidth W)) :
    (b.startMonMul c X Y M m).opa = b.opa := rfl
@[simp] theorem Block.startMonMul_opb (c : Caller) (X Y M : BitVec W) (m : BitVec (counterWidth W)) :
    (b.startMonMul c X Y M m).opb = b.opb := rfl
@[simp] theorem Block.startMonMul_mod (c : Caller) (X Y M : BitVec W) (m : BitVec (counterWidth W)) :
    (b.startMonMul c X Y M m).mod = b.mod := rfl
@[simp] theorem Block.startMonMul_bitw (c : Caller) (X Y M : BitVec W) (m : BitVec (counterWidth W)) :
    (b.startMonMul c X Y M m).bitw = b.bitw := rfl
@[simp] theorem Block.startMonMul_result (c : Caller) (X Y M : BitVec W) (m : BitVec (counterWidth W)) :
    (b.startMonMul c X Y M m).result = b.result := rfl
@[simp] theorem Block.startMonMul_busy (c : Caller) (X Y M : BitVec W) (m : BitVec (counterWidth W)) :
    (b.startMonMul c X Y M m).busy = b.busy := rfl
@[simp] theorem Block.startMonMul_done (c : Caller) (X Y M : BitVec W) (m : BitVec (counterWidth W)) :
    (b.startMonMul c X Y M m).done = b.done := rfl
@[simp] theorem Block.startMonMul_err (c : Caller) (X Y M : BitVec W) (m : BitVec (counterWidth W)) :
    (b.startMonMul c X Y M m).err = b.err := rfl
@[simp] theorem Block.startMonMul_ovr (c : Caller) (X Y M : BitVec W) (m : BitVec (counterWidth W)) :
    (b.startMonMul c X Y M m).ovr = b.ovr := rfl
@[simp] theorem Block.startMonMul_latch (c : Caller) (X Y M : BitVec W) (m : BitVec (counterWidth W)) :
    (b.startMonMul c X Y M m).latch = b.latch := rfl
@[simp] theorem Block.startMonMul_mul (c : Caller) (X Y M : BitVec W) (m : BitVec (counterWidth W)) :
    (b.startMonMul c X Y M m).mul = { T := 0, i := 0, X := X, Y := Y, M := M, m := m } := rfl
@[simp] theorem Block.startMonMul_ex (c : Caller) (X Y M : BitVec W) (m : BitVec (counterWidth W)) :
    (b.startMonMul c X Y M m).ex = b.ex := rfl
@[simp] theorem Block.startMonMul_phase (c : Caller) (X Y M : BitVec W) (m : BitVec (counterWidth W)) :
    (b.startMonMul c X Y M m).phase = .mmIter := rfl
@[simp] theorem Block.startMonMul_caller (c : Caller) (X Y M : BitVec W) (m : BitVec (counterWidth W)) :
    (b.startMonMul c X Y M m).caller = c := rfl

@[simp] theorem Block.exMonMul_opa (c : Caller) (X Y : BitVec W) :
    (b.exMonMul c X Y).opa = b.opa := rfl
@[simp] theorem Block.exMonMul_opb (c : Caller) (X Y : BitVec W) :
    (b.exMonMul c X Y).opb = b.opb := rfl
@[simp] theorem Block.exMonMul_mod (c : Caller) (X Y : BitVec W) :
    (b.exMonMul c X Y).mod = b.mod := rfl
@[simp] theorem Block.exMonMul_bitw (c : Caller) (X Y : BitVec W) :
    (b.exMonMul c X Y).bitw = b.bitw := rfl
@[simp] theorem Block.exMonMul_result (c : Caller) (X Y : BitVec W) :
    (b.exMonMul c X Y).result = b.result := rfl
@[simp] theorem Block.exMonMul_busy (c : Caller) (X Y : BitVec W) :
    (b.exMonMul c X Y).busy = b.busy := rfl
@[simp] theorem Block.exMonMul_done (c : Caller) (X Y : BitVec W) :
    (b.exMonMul c X Y).done = b.done := rfl
@[simp] theorem Block.exMonMul_err (c : Caller) (X Y : BitVec W) :
    (b.exMonMul c X Y).err = b.err := rfl
@[simp] theorem Block.exMonMul_ovr (c : Caller) (X Y : BitVec W) :
    (b.exMonMul c X Y).ovr = b.ovr := rfl
@[simp] theorem Block.exMonMul_latch (c : Caller) (X Y : BitVec W) :
    (b.exMonMul c X Y).latch = b.latch := rfl
@[simp] theorem Block.exMonMul_mul (c : Caller) (X Y : BitVec W) :
    (b.exMonMul c X Y).mul = { T := 0, i := 0, X := X, Y := Y, M := b.latch.M, m := b.ex.m } := rfl
@[simp] theorem Block.exMonMul_ex (c : Caller) (X Y : BitVec W) :
    (b.exMonMul c X Y).ex = b.ex := rfl
@[simp] theorem Block.exMonMul_phase (c : Caller) (X Y : BitVec W) :
    (b.exMonMul c X Y).phase = .mmIter := rfl
@[simp] theorem Block.exMonMul_caller (c : Caller) (X Y : BitVec W) :
    (b.exMonMul c X Y).caller = c := rfl

@[simp] theorem Block.mmIter_opa : (b.mmIter).opa = b.opa := rfl
@[simp] theorem Block.mmIter_opb : (b.mmIter).opb = b.opb := rfl
@[simp] theorem Block.mmIter_mod : (b.mmIter).mod = b.mod := rfl
@[simp] theorem Block.mmIter_bitw : (b.mmIter).bitw = b.bitw := rfl
@[simp] theorem Block.mmIter_result : (b.mmIter).result = b.result := rfl
@[simp] theorem Block.mmIter_busy : (b.mmIter).busy = b.busy := rfl
@[simp] theorem Block.mmIter_done : (b.mmIter).done = b.done := rfl
@[simp] theorem Block.mmIter_err : (b.mmIter).err = b.err := rfl
@[simp] theorem Block.mmIter_ovr : (b.mmIter).ovr = b.ovr := rfl
@[simp] theorem Block.mmIter_latch : (b.mmIter).latch = b.latch := rfl
@[simp] theorem Block.mmIter_mul : (b.mmIter).mul = b.mul.iterate := rfl
@[simp] theorem Block.mmIter_ex : (b.mmIter).ex = b.ex := rfl
@[simp] theorem Block.mmIter_phase :
    (b.mmIter).phase = if b.mul.iterate.i = b.mul.iterate.m then .mmFinal else .mmIter := rfl
@[simp] theorem Block.mmIter_caller : (b.mmIter).caller = b.caller := rfl

@[simp] theorem Block.param_opa : (b.param).opa = b.opa := rfl
@[simp] theorem Block.param_opb : (b.param).opb = b.opb := rfl
@[simp] theorem Block.param_mod : (b.param).mod = b.mod := rfl
@[simp] theorem Block.param_bitw : (b.param).bitw = b.bitw := rfl
@[simp] theorem Block.param_result : (b.param).result = b.result := rfl
@[simp] theorem Block.param_busy : (b.param).busy = b.busy := rfl
@[simp] theorem Block.param_done : (b.param).done = b.done := rfl
@[simp] theorem Block.param_err : (b.param).err = b.err := rfl
@[simp] theorem Block.param_ovr : (b.param).ovr = b.ovr := rfl
@[simp] theorem Block.param_latch : (b.param).latch = b.latch := rfl
@[simp] theorem Block.param_mul : (b.param).mul = b.mul := rfl
@[simp] theorem Block.param_ex :
    (b.param).ex = { b.ex with
    m := BitVec.ofNat (counterWidth W) (bitlen b.latch.M.toNat)
    Rm := BitVec.ofNat W (radixResidue b.latch.M.toNat)
    RR := BitVec.ofNat W (radixSquare b.latch.M.toNat) } := rfl
@[simp] theorem Block.param_phase : (b.param).phase = .reduce := rfl
@[simp] theorem Block.param_caller : (b.param).caller = b.caller := rfl

@[simp] theorem Block.reduceBase_opa : (b.reduceBase).opa = b.opa := rfl
@[simp] theorem Block.reduceBase_opb : (b.reduceBase).opb = b.opb := rfl
@[simp] theorem Block.reduceBase_mod : (b.reduceBase).mod = b.mod := rfl
@[simp] theorem Block.reduceBase_bitw : (b.reduceBase).bitw = b.bitw := rfl
@[simp] theorem Block.reduceBase_result : (b.reduceBase).result = b.result := rfl
@[simp] theorem Block.reduceBase_busy : (b.reduceBase).busy = b.busy := rfl
@[simp] theorem Block.reduceBase_done : (b.reduceBase).done = b.done := rfl
@[simp] theorem Block.reduceBase_err : (b.reduceBase).err = b.err := rfl
@[simp] theorem Block.reduceBase_ovr : (b.reduceBase).ovr = b.ovr := rfl
@[simp] theorem Block.reduceBase_latch : (b.reduceBase).latch = b.latch := rfl
@[simp] theorem Block.reduceBase_mul : (b.reduceBase).mul = b.mul := rfl
@[simp] theorem Block.reduceBase_ex :
    (b.reduceBase).ex = { b.ex with b := b.latch.A % b.latch.M } := rfl
@[simp] theorem Block.reduceBase_phase : (b.reduceBase).phase = .convIn := rfl
@[simp] theorem Block.reduceBase_caller : (b.reduceBase).caller = b.caller := rfl

@[simp] theorem Block.returnConvIn_opa : (b.returnConvIn).opa = b.opa := rfl
@[simp] theorem Block.returnConvIn_opb : (b.returnConvIn).opb = b.opb := rfl
@[simp] theorem Block.returnConvIn_mod : (b.returnConvIn).mod = b.mod := rfl
@[simp] theorem Block.returnConvIn_bitw : (b.returnConvIn).bitw = b.bitw := rfl
@[simp] theorem Block.returnConvIn_result : (b.returnConvIn).result = b.result := rfl
@[simp] theorem Block.returnConvIn_busy : (b.returnConvIn).busy = b.busy := rfl
@[simp] theorem Block.returnConvIn_done : (b.returnConvIn).done = b.done := rfl
@[simp] theorem Block.returnConvIn_err : (b.returnConvIn).err = b.err := rfl
@[simp] theorem Block.returnConvIn_ovr : (b.returnConvIn).ovr = b.ovr := rfl
@[simp] theorem Block.returnConvIn_latch : (b.returnConvIn).latch = b.latch := rfl
@[simp] theorem Block.returnConvIn_mul : (b.returnConvIn).mul = b.mul := rfl
@[simp] theorem Block.returnConvIn_ex :
    (b.returnConvIn).ex = { b.ex with bs := b.mul.T.setWidth W } := rfl
@[simp] theorem Block.returnConvIn_phase : (b.returnConvIn).phase = .convOne := rfl
@[simp] theorem Block.returnConvIn_caller : (b.returnConvIn).caller = b.caller := rfl

@[simp] theorem Block.returnConvOne_opa : (b.returnConvOne).opa = b.opa := rfl
@[simp] theorem Block.returnConvOne_opb : (b.returnConvOne).opb = b.opb := rfl
@[simp] theorem Block.returnConvOne_mod : (b.returnConvOne).mod = b.mod := rfl
@[simp] theorem Block.returnConvOne_bitw : (b.returnConvOne).bitw = b.bitw := rfl
@[simp] theorem Block.returnConvOne_result : (b.returnConvOne).result = b.result := rfl
@[simp] theorem Block.returnConvOne_busy : (b.returnConvOne).busy = b.busy := rfl
@[simp] theorem Block.returnConvOne_done : (b.returnConvOne).done = b.done := rfl
@[simp] theorem Block.returnConvOne_err : (b.returnConvOne).err = b.err := rfl
@[simp] theorem Block.returnConvOne_ovr : (b.returnConvOne).ovr = b.ovr := rfl
@[simp] theorem Block.returnConvOne_latch : (b.returnConvOne).latch = b.latch := rfl
@[simp] theorem Block.returnConvOne_mul : (b.returnConvOne).mul = b.mul := rfl
@[simp] theorem Block.returnConvOne_ex :
    (b.returnConvOne).ex = { b.ex with acc := b.mul.T.setWidth W, E := b.latch.B } := rfl
@[simp] theorem Block.returnConvOne_phase : (b.returnConvOne).phase = loopPhase b.latch.B := rfl
@[simp] theorem Block.returnConvOne_caller : (b.returnConvOne).caller = b.caller := rfl

@[simp] theorem Block.returnLoopMul_opa : (b.returnLoopMul).opa = b.opa := rfl
@[simp] theorem Block.returnLoopMul_opb : (b.returnLoopMul).opb = b.opb := rfl
@[simp] theorem Block.returnLoopMul_mod : (b.returnLoopMul).mod = b.mod := rfl
@[simp] theorem Block.returnLoopMul_bitw : (b.returnLoopMul).bitw = b.bitw := rfl
@[simp] theorem Block.returnLoopMul_result : (b.returnLoopMul).result = b.result := rfl
@[simp] theorem Block.returnLoopMul_busy : (b.returnLoopMul).busy = b.busy := rfl
@[simp] theorem Block.returnLoopMul_done : (b.returnLoopMul).done = b.done := rfl
@[simp] theorem Block.returnLoopMul_err : (b.returnLoopMul).err = b.err := rfl
@[simp] theorem Block.returnLoopMul_ovr : (b.returnLoopMul).ovr = b.ovr := rfl
@[simp] theorem Block.returnLoopMul_latch : (b.returnLoopMul).latch = b.latch := rfl
@[simp] theorem Block.returnLoopMul_mul : (b.returnLoopMul).mul = b.mul := rfl
@[simp] theorem Block.returnLoopMul_ex :
    (b.returnLoopMul).ex = { b.ex with acc := b.mul.T.setWidth W } := rfl
@[simp] theorem Block.returnLoopMul_phase : (b.returnLoopMul).phase = .loopSqr := rfl
@[simp] theorem Block.returnLoopMul_caller : (b.returnLoopMul).caller = b.caller := rfl

@[simp] theorem Block.returnLoopSqr_opa : (b.returnLoopSqr).opa = b.opa := rfl
@[simp] theorem Block.returnLoopSqr_opb : (b.returnLoopSqr).opb = b.opb := rfl
@[simp] theorem Block.returnLoopSqr_mod : (b.returnLoopSqr).mod = b.mod := rfl
@[simp] theorem Block.returnLoopSqr_bitw : (b.returnLoopSqr).bitw = b.bitw := rfl
@[simp] theorem Block.returnLoopSqr_result : (b.returnLoopSqr).result = b.result := rfl
@[simp] theorem Block.returnLoopSqr_busy : (b.returnLoopSqr).busy = b.busy := rfl
@[simp] theorem Block.returnLoopSqr_done : (b.returnLoopSqr).done = b.done := rfl
@[simp] theorem Block.returnLoopSqr_err : (b.returnLoopSqr).err = b.err := rfl
@[simp] theorem Block.returnLoopSqr_ovr : (b.returnLoopSqr).ovr = b.ovr := rfl
@[simp] theorem Block.returnLoopSqr_latch : (b.returnLoopSqr).latch = b.latch := rfl
@[simp] theorem Block.returnLoopSqr_mul : (b.returnLoopSqr).mul = b.mul := rfl
@[simp] theorem Block.returnLoopSqr_ex :
    (b.returnLoopSqr).ex = { b.ex with bs := b.mul.T.setWidth W, E := b.ex.E >>> 1 } := rfl
@[simp] theorem Block.returnLoopSqr_phase : (b.returnLoopSqr).phase = loopPhase (b.ex.E >>> 1) := rfl
@[simp] theorem Block.returnLoopSqr_caller : (b.returnLoopSqr).caller = b.caller := rfl

@[simp] theorem resetEvent_toBlock : (resetEvent s).toBlock = Block.reset Config.W := rfl
@[simp] theorem resetEvent_prog : (resetEvent s).prog = s.prog := rfl
@[simp] theorem resetEvent_sched : (resetEvent s).sched = s.sched := rfl
@[simp] theorem resetEvent_returned : (resetEvent s).returned = s.returned := rfl
@[simp] theorem resetEvent_draws : (resetEvent s).draws = s.draws := rfl

@[simp] theorem hostRead_toBlock (i : BitVec 3) : (hostRead i s).toBlock = s.toBlock := rfl
@[simp] theorem hostRead_prog (i : BitVec 3) : (hostRead i s).prog = s.prog := rfl
@[simp] theorem hostRead_sched (i : BitVec 3) : (hostRead i s).sched = s.sched := rfl
@[simp] theorem hostRead_returned (i : BitVec 3) :
    (hostRead i s).returned = (i, s.toBlock.memRead i) :: s.returned := rfl
@[simp] theorem hostRead_draws (i : BitVec 3) : (hostRead i s).draws = s.draws := rfl

@[simp] theorem State.accepted_opa (op : BitVec 2) : (s.accepted op).opa = s.opa := rfl
@[simp] theorem State.accepted_opb (op : BitVec 2) : (s.accepted op).opb = s.opb := rfl
@[simp] theorem State.accepted_mod (op : BitVec 2) : (s.accepted op).mod = s.mod := rfl
@[simp] theorem State.accepted_bitw (op : BitVec 2) : (s.accepted op).bitw = s.bitw := rfl
@[simp] theorem State.accepted_result (op : BitVec 2) : (s.accepted op).result = s.result := rfl
@[simp] theorem State.accepted_busy (op : BitVec 2) : (s.accepted op).busy = true := rfl
@[simp] theorem State.accepted_done (op : BitVec 2) : (s.accepted op).done = false := rfl
@[simp] theorem State.accepted_err (op : BitVec 2) : (s.accepted op).err = 0 := rfl
@[simp] theorem State.accepted_ovr (op : BitVec 2) : (s.accepted op).ovr = false := rfl
@[simp] theorem State.accepted_latch (op : BitVec 2) :
    (s.accepted op).latch = { op := op, A := s.opa, B := s.opb, M := s.mod, m := s.bitw } := rfl
@[simp] theorem State.accepted_mul (op : BitVec 2) : (s.accepted op).mul = s.mul := rfl
@[simp] theorem State.accepted_ex (op : BitVec 2) : (s.accepted op).ex = s.ex := rfl
@[simp] theorem State.accepted_phase (op : BitVec 2) : (s.accepted op).phase = .check := rfl
@[simp] theorem State.accepted_caller (op : BitVec 2) : (s.accepted op).caller = s.caller := rfl
@[simp] theorem State.accepted_prog (op : BitVec 2) : (s.accepted op).prog = s.prog := rfl
@[simp] theorem State.accepted_sched (op : BitVec 2) : (s.accepted op).sched = s.sched := rfl
@[simp] theorem State.accepted_returned (op : BitVec 2) : (s.accepted op).returned = s.returned := rfl
@[simp] theorem State.accepted_draws (op : BitVec 2) : (s.accepted op).draws = s.draws := rfl

@[simp] theorem Block.reset_opa : (Block.reset W).opa = 0 := rfl
@[simp] theorem Block.reset_opb : (Block.reset W).opb = 0 := rfl
@[simp] theorem Block.reset_mod : (Block.reset W).mod = 0 := rfl
@[simp] theorem Block.reset_bitw : (Block.reset W).bitw = 0 := rfl
@[simp] theorem Block.reset_result : (Block.reset W).result = 0 := rfl
@[simp] theorem Block.reset_busy : (Block.reset W).busy = false := rfl
@[simp] theorem Block.reset_done : (Block.reset W).done = false := rfl
@[simp] theorem Block.reset_err : (Block.reset W).err = 0 := rfl
@[simp] theorem Block.reset_ovr : (Block.reset W).ovr = false := rfl
@[simp] theorem Block.reset_latch : (Block.reset W).latch = { op := 0, A := 0, B := 0, M := 0, m := 0 } := rfl
@[simp] theorem Block.reset_mul : (Block.reset W).mul = { T := 0, i := 0, X := 0, Y := 0, M := 0, m := 0 } := rfl
@[simp] theorem Block.reset_ex : (Block.reset W).ex =
    { m := 0, Rm := 0, RR := 0, b := 0, E := 0, bs := 0, acc := 0 } := rfl
@[simp] theorem Block.reset_phase : (Block.reset W).phase = .idle := rfl
@[simp] theorem Block.reset_caller : (Block.reset W).caller = .monmul := rfl

end Sys2Proof.Machine
end

