-- ==== Sys2Proof/Laws/Ops.lean ====
section
/-! SUPPORT. One lemma per shared operation, saying once what it does: the slots, reads and writes, the accept, the
engine's turn, and the cases of a step. -/

namespace Sys2Proof.Machine

variable {W : Nat}

/-! ### Slots -/

theorem index_cases : ∀ i : BitVec 3, i = 0 ∨ i = 1 ∨ i = 2 ∨ i = 3 ∨ i = 4 ∨ i = 5 ∨ i = 6 ∨ i = 7 := by decide

@[simp] theorem Slot.ofIndex_index (r : Slot) : Slot.ofIndex r.index = r := by cases r <;> rfl

@[simp] theorem Slot.index_ofIndex : ∀ i : BitVec 3, (Slot.ofIndex i).index = i := by decide

theorem Slot.ofIndex_injective {i j : BitVec 3} (h : Slot.ofIndex i = Slot.ofIndex j) : i = j := by
  rw [← Slot.index_ofIndex i, h, Slot.index_ofIndex]

theorem Block.memRead_index (b : Block W) (r : Slot) : b.memRead r.index =
    match r with
    | .ctrl => 0
    | .status => b.statusWord
    | .opa => b.opa
    | .opb => b.opb
    | .mod => b.mod
    | .bitw => b.bitw
    | .result => b.result
    | .slot7 => 0 := by
  cases r <;> rfl

/-- A write to a slot reaches no field but the four operand registers. -/
theorem Block.writeSlot_frame (r : Slot) (v : BitVec W) (b : Block W) :
    (b.writeSlot r v).result = b.result ∧ (b.writeSlot r v).busy = b.busy ∧ (b.writeSlot r v).done = b.done ∧
      (b.writeSlot r v).err = b.err ∧ (b.writeSlot r v).ovr = b.ovr ∧ (b.writeSlot r v).latch = b.latch ∧
      (b.writeSlot r v).mul = b.mul ∧ (b.writeSlot r v).ex = b.ex ∧ (b.writeSlot r v).phase = b.phase ∧
      (b.writeSlot r v).caller = b.caller := by
  cases r <;> exact ⟨rfl, rfl, rfl, rfl, rfl, rfl, rfl, rfl, rfl, rfl⟩

/-! ### Commands -/

theorem CommandError.code_ne_zero (e : CommandError) : e.code ≠ 0 := by cases e <;> decide

theorem commandOfOp_opOf {i : Instr} (h : i ≠ .nocmd) : commandOfOp (opOf i) = i := by
  cases i <;> first | rfl | exact absurd rfl h

theorem commandOfOp_ne_nocmd : ∀ op : BitVec 2, commandOfOp op ≠ .nocmd := by decide

theorem opOf_commandOfOp : ∀ op : BitVec 2, opOf (commandOfOp op) = op := by decide

theorem decode_start {v : BitVec W} (h : v.getLsbD 0 = true) : decode v = commandOfOp (v.extractLsb' 1 2) := by
  simp [decode, ctrlStart, ctrlOp, h]

theorem decode_nostart {v : BitVec W} (h : v.getLsbD 0 = false) : decode v = .nocmd := by
  simp [decode, ctrlStart, h]

theorem Block.start_busy {b : Block W} (op : BitVec 2) (h : b.busy = true) : b.start op = b.statusOverrun := by
  simp [Block.start, h]

theorem Block.start_idle {b : Block W} (op : BitVec 2) (h : b.busy = false) : b.start op = b.accept op := by
  simp [Block.start, h]

/-- Every command's meaning is the shared CTRL write. -/
theorem exec_command {i : Instr} (h : i ≠ .nocmd) (s : State) : exec i s = startCommand (opOf i) s := by
  cases i <;> first | rfl | exact absurd rfl h

theorem startCommand_busy {s : State} (op : BitVec 2) (h : s.busy = true) :
    startCommand op s = .next { s with ovr := true } := by
  rw [startCommand, Block.start_busy op h]
  rfl

theorem startCommand_idle {s : State} (op : BitVec 2) (h : s.busy = false) :
    startCommand op s = .next (s.accepted op) := by
  rw [startCommand, Block.start_idle op h]
  rfl

/-! ### Host accesses -/

theorem memWrite_ctrl (v : Word) (s : State) : memWrite 0 v s = exec (decode v) s := rfl

theorem memWrite_slot {r : Slot} (h : r ≠ .ctrl) (v : Word) (s : State) :
    memWrite r.index v s = .next { s with toBlock := s.toBlock.writeSlot r v } := by
  cases r <;> first | rfl | exact absurd rfl h

theorem memWrite_next (i : BitVec 3) (v : Word) (s : State) : ∃ t, memWrite i v s = .next t := by
  unfold memWrite
  split
  · cases decode v <;> exact ⟨_, rfl⟩
  · exact ⟨_, rfl⟩

theorem statusWord_done (s : State) : s.statusWord.getLsbD 1 = s.done := by
  unfold Block.statusWord
  generalize s.ovr = o
  generalize s.err = e
  generalize s.done = d
  generalize s.busy = u
  revert o e d u
  decide

theorem hostPoll_toBlock (s : State) : (hostPoll s).toBlock = s.toBlock := by
  unfold hostPoll
  split <;> rfl

/-- What a host step can do to the block. -/
inductive HostCase (op : HostOp Config.W) (b t : Block Config.W) : Prop
  /-- A read, a poll, a CTRL write without START, or a write that is ignored. -/
  | same (ht : t = b) (start : ∀ v, op = .wr 0 v → v.getLsbD 0 = false)
      (slot : ∀ i v, op = .wr i v → i = 0 ∨ i = 1 ∨ i = 6 ∨ i = 7)
  /-- A write to an operand register. -/
  | slot (i : BitVec 3) (v : Word) (ho : op = .wr i v) (hi : i = 2 ∨ i = 3 ∨ i = 4 ∨ i = 5)
      (ht : t = b.writeSlot (Slot.ofIndex i) v)
  /-- A CTRL write with START = 1. -/
  | start (v : Word) (ho : op = .wr 0 v) (hv : v.getLsbD 0 = true) (ht : t = b.start (v.extractLsb' 1 2))

theorem hostStep_cases {op : HostOp Config.W} {s t : State} (h : hostStep op s = .next t) :
    HostCase op s.toBlock t.toBlock := by
  cases op with
  | wr i v =>
    change memWrite i v s = _ at h
    have ignored : i = 1 ∨ i = 6 ∨ i = 7 → t.toBlock = s.toBlock → HostCase (.wr i v) s.toBlock t.toBlock := by
      intro hi ht
      refine .same ht (fun v' e => ?_) (fun j v' e => ?_) <;> injection e with e _ <;> subst e
      · exact absurd hi (by decide)
      · exact .inr hi
    rcases index_cases i with rfl | rfl | rfl | rfl | rfl | rfl | rfl | rfl
    · rw [memWrite_ctrl] at h
      by_cases hv : v.getLsbD 0 = true
      · rw [decode_start hv, exec_command (commandOfOp_ne_nocmd _), opOf_commandOfOp] at h
        injection h with h
        subst h
        exact .start v rfl hv rfl
      · have hv : v.getLsbD 0 = false := by simpa using hv
        rw [decode_nostart hv] at h
        injection h with h
        subst h
        exact .same rfl (fun v' e => by injection e with _ e; subst e; exact hv)
          (fun j v' e => by injection e with e _; exact .inl e.symm)
    · injection h with h
      exact ignored (by decide) (by rw [← h]; rfl)
    · injection h with h
      exact .slot 2 v rfl (by decide) (by rw [← h])
    · injection h with h
      exact .slot 3 v rfl (by decide) (by rw [← h])
    · injection h with h
      exact .slot 4 v rfl (by decide) (by rw [← h])
    · injection h with h
      exact .slot 5 v rfl (by decide) (by rw [← h])
    · injection h with h
      exact ignored (by decide) (by rw [← h]; rfl)
    · injection h with h
      exact ignored (by decide) (by rw [← h]; rfl)
  | rd i =>
    injection h with h
    exact .same (by rw [← h]; rfl) (fun _ e => by cases e) (fun _ _ e => by cases e)
  | wait =>
    injection h with h
    exact .same (by rw [← h]; exact hostPoll_toBlock s) (fun _ e => by cases e) (fun _ _ e => by cases e)

/-! ### The engine's turn -/

theorem engineTick_busy {s : State} (h : s.busy = true) : engineTick s =
    { s with toBlock := s.toBlock.tick (Config.freeWord Config.W s.draws), draws := s.draws + 1 } := by
  simp [engineTick, h]

theorem engineTick_idle {s : State} (h : s.busy = false) : engineTick s = s := by simp [engineTick, h]

theorem engineTicks_add (j k : Nat) (s : State) : engineTicks (j + k) s = engineTicks k (engineTicks j s) := by
  induction j generalizing s with
  | zero => rw [Nat.zero_add]; rfl
  | succ j ih => rw [Nat.succ_add]; exact ih (engineTick s)

theorem engineTicks_succ (k : Nat) (s : State) : engineTicks (k + 1) s = engineTick (engineTicks k s) :=
  engineTicks_add k 1 s

/-- A micro-step keeps everything of the model's own but the free-value counter. -/
theorem engineTick_frame (s : State) :
    (engineTick s).prog = s.prog ∧ (engineTick s).sched = s.sched ∧ (engineTick s).returned = s.returned := by
  unfold engineTick
  split <;> exact ⟨rfl, rfl, rfl⟩

/-! ### The cases of a step -/

/-- What a step can be. -/
inductive StepCase (s t : State) : Prop
  | reset (h : s.ResetsNext) (ht : t.toBlock = Block.reset Config.W)
  | engine (k : Nat) (sched : List Turn) (h : s.EngineNext) (ht : t = engineTicks k { s with sched := sched })
  | host (op : HostOp Config.W) (s' : State) (h : s.nextHostOp = some op) (hs : s'.toBlock = s.toBlock)
      (ht : hostStep op s' = .next t)
  | none (h : s.nextHostOp = none) (hr : ¬ s.ResetsNext) (he : ¬ s.EngineNext) (ht : t.toBlock = s.toBlock)

theorem hostTurn_cases {s s' t : State} (hb : s'.toBlock = s.toBlock) (hp : s'.prog = s.prog)
    (hn : s.nextHostOp = s.prog.head?) (hr : ¬ s.ResetsNext) (he : ¬ s.EngineNext) (h : hostTurn s' = .next t) :
    StepCase s t := by
  unfold hostTurn at h
  split at h
  · rename_i hnil
    injection h with h
    subst h
    exact .none (by rw [hn, ← hp, hnil]; rfl) hr he hb
  · rename_i op rest hc
    exact .host op { s' with prog := rest } (by rw [hn, ← hp, hc]; rfl) hb h

theorem step_cases {s t : State} (h : step s = .next t) : StepCase s t := by
  unfold step at h
  split at h
  · rename_i rest hs
    refine hostTurn_cases (s' := { s with sched := rest }) rfl rfl (by simp [State.nextHostOp, hs]) ?_ ?_ h
    · rintro ⟨r, hr⟩
      rw [hs] at hr
      cases hr
    · rintro (⟨k, r, hr⟩ | ⟨hr, -⟩) <;> rw [hs] at hr <;> cases hr
  · rename_i k rest hs
    injection h with h
    exact .engine k rest (.inl ⟨k, rest, hs⟩) h.symm
  · rename_i rest hs
    injection h with h
    exact .reset ⟨rest, hs⟩ (by rw [← h]; rfl)
  · rename_i hs
    split at h
    · rename_i hb
      injection h with h
      refine .engine 1 [] (.inr ⟨hs, hb⟩) ?_
      rw [← h, ← hs]
      rfl
    · rename_i hb
      refine hostTurn_cases (s' := s) rfl rfl (by simp [State.nextHostOp, hs, hb]) ?_ ?_ h
      · rintro ⟨r, hr⟩
        rw [hs] at hr
        cases hr
      · rintro (⟨k, r, hr⟩ | ⟨-, hr⟩)
        · rw [hs] at hr
          cases hr
        · exact hb hr

end Sys2Proof.Machine
end

