-- ==== Sys2Proof/Laws/Datapath.lean ====
section
/-! SUPPORT. The arithmetic functions and the multiplier's registers: bounds, and each register operation as the
function on naturals it computes. -/

namespace Sys2Proof.Machine

variable {W : Nat}

theorem lt_two_pow_bitlen (v : Nat) : v < 2 ^ bitlen v := by
  unfold bitlen
  split
  · subst_vars
    simp
  · exact Nat.lt_log2_self

theorem two_pow_bitlen_le {v : Nat} (h : v ≠ 0) : 2 ^ (bitlen v - 1) ≤ v := by
  simpa [bitlen, h] using Nat.log2_self_le h

/-- W, and so every m ≤ W, fits the counter. -/
theorem lt_two_pow_counterWidth (W : Nat) : W < 2 ^ counterWidth W := Nat.lt_log2_self

theorem monSum_le (Y M T : Nat) (Xi : Bool) : monSum Y M T Xi ≤ T + Y + M := by
  unfold monSum
  dsimp only
  split <;> split <;> omega

theorem subOnce_modEq (M T : Nat) : subOnce M T ≡ T [MOD M] := by
  unfold subOnce
  split
  · rename_i h
    conv_rhs => rw [← Nat.sub_add_cancel h]
    simp [Nat.ModEq]
  · rfl

theorem subOnce_lt {M T : Nat} (h : T < 2 * M) : subOnce M T < M := by
  unfold subOnce
  split <;> omega

theorem monIter_lt {M Y T : Nat} (hM : 0 < M) (Xi : Bool) (h : T < Y + M) : monIter Y M T Xi < Y + M := by
  have := monSum_le Y M T Xi
  have h' : monSum Y M T Xi >>> 1 < Y + M := by simp only [Nat.shiftRight_eq_div_pow]; omega
  unfold monIter subOnce
  split <;> omega

theorem Latch.validModulus_iff (L : Latch W) : L.validModulus = true ↔ ValidModulus L.M.toNat := by
  simp [Latch.validModulus, ValidModulus, BitVec.getLsbD, Nat.testBit_zero]

theorem toNat_setWidth_of_lt {n : Nat} {v : BitVec n} (h : v.toNat < 2 ^ W) : (v.setWidth W).toNat = v.toNat := by
  rw [BitVec.toNat_setWidth, Nat.mod_eq_of_lt h]

theorem Multiplier.sum_toNat (u : Multiplier W) (hT : u.T.toNat < u.Y.toNat + u.M.toNat) :
    u.sum.toNat = monSum u.Y.toNat u.M.toNat u.T.toNat (u.X.toNat.testBit u.i.toNat) := by
  have hY := u.Y.isLt
  have hM := u.M.isLt
  have p2 : 2 ^ (W + 2) = 4 * 2 ^ W := by rw [pow_add]; omega
  have eT : (u.T.setWidth (W + 2)).toNat = u.T.toNat := toNat_setWidth_of_lt (by omega)
  have eY : (u.Y.setWidth (W + 2)).toNat = u.Y.toNat := toNat_setWidth_of_lt (by omega)
  have eM : (u.M.setWidth (W + 2)).toNat = u.M.toNat := toNat_setWidth_of_lt (by omega)
  have bit : ∀ {w : Nat} (v : BitVec w) i, v.getLsbD i = v.toNat.testBit i := fun _ _ => rfl
  unfold Multiplier.sum monSum
  simp only [bit]
  generalize u.X.toNat.testBit u.i.toNat = Xi
  generalize (u.T.toNat.testBit 0 ^^ (Xi && u.Y.toNat.testBit 0)) = eta
  cases Xi <;> cases eta <;> simp [BitVec.toNat_add, -BitVec.toNat_setWidth, eT, eY, eM] <;>
    (try rw [Nat.mod_eq_of_lt]) <;> omega

theorem Multiplier.subM_T (u : Multiplier W) : u.subM.T.toNat = subOnce u.M.toNat u.T.toNat := by
  have hM := u.M.isLt
  have p1 : 2 ^ (W + 1) = 2 * 2 ^ W := by rw [pow_succ]; omega
  have eM : (u.M.setWidth (W + 1)).toNat = u.M.toNat := toNat_setWidth_of_lt (by omega)
  unfold Multiplier.subM subOnce
  simp only [BitVec.le_def, eM]
  split
  · rename_i h
    rw [BitVec.toNat_sub_of_le (by rw [BitVec.le_def, eM]; exact h), eM]
  · rfl

@[simp] theorem Multiplier.subM_X (u : Multiplier W) : u.subM.X = u.X := by unfold Multiplier.subM; split <;> rfl
@[simp] theorem Multiplier.subM_Y (u : Multiplier W) : u.subM.Y = u.Y := by unfold Multiplier.subM; split <;> rfl
@[simp] theorem Multiplier.subM_M (u : Multiplier W) : u.subM.M = u.M := by unfold Multiplier.subM; split <;> rfl
@[simp] theorem Multiplier.subM_m (u : Multiplier W) : u.subM.m = u.m := by unfold Multiplier.subM; split <;> rfl
@[simp] theorem Multiplier.subM_i (u : Multiplier W) : u.subM.i = u.i := by unfold Multiplier.subM; split <;> rfl
@[simp] theorem Multiplier.iterate_X (u : Multiplier W) : u.iterate.X = u.X := by simp [Multiplier.iterate]
@[simp] theorem Multiplier.iterate_Y (u : Multiplier W) : u.iterate.Y = u.Y := by simp [Multiplier.iterate]
@[simp] theorem Multiplier.iterate_M (u : Multiplier W) : u.iterate.M = u.M := by simp [Multiplier.iterate]
@[simp] theorem Multiplier.iterate_m (u : Multiplier W) : u.iterate.m = u.m := by simp [Multiplier.iterate]
@[simp] theorem Multiplier.iterate_i (u : Multiplier W) : u.iterate.i = u.i + 1 := by simp [Multiplier.iterate]

/-- One iteration in the registers is one iteration on naturals. -/
theorem Multiplier.iterate_T (u : Multiplier W) (hT : u.T.toNat < u.Y.toNat + u.M.toNat) :
    u.iterate.T.toNat = monIter u.Y.toNat u.M.toNat u.T.toNat (u.X.toNat.testBit u.i.toNat) := by
  have h := u.sum_toNat hT
  have hl := monSum_le u.Y.toNat u.M.toNat u.T.toNat (u.X.toNat.testBit u.i.toNat)
  have hY := u.Y.isLt
  have hM := u.M.isLt
  have p1 : 2 ^ (W + 1) = 2 * 2 ^ W := by rw [pow_succ]; omega
  unfold Multiplier.iterate
  dsimp only
  rw [Multiplier.subM_T]
  dsimp only
  unfold monIter
  congr 1
  rw [BitVec.toNat_setWidth, BitVec.toNat_ushiftRight, h, Nat.mod_eq_of_lt]
  simp only [Nat.shiftRight_eq_div_pow]
  omega

end Sys2Proof.Machine
end

