-- ==== Sys2Proof/Laws/PerInstr.lean ====
section
/-! SUPPORT. Statements made per instruction, one lemma per constructor of Instr. -/

namespace Sys2Proof.Laws.TableRow

/-- The instruction's canonical CTRL value in every build: it is the row's match, it lies inside the row's mask, its
reserved bits are 0, and its START and OP fields are the instruction's. -/
def Statement (i : Instr) : Prop :=
  i.wellFormed = true ∧ ctrlMatch i &&& ctrlMask i = ctrlMatch i ∧
  ∀ W, 8 ≤ W →
    (encode W i).toNat = ctrlMatch i ∧ ctrlCanonical (encode W i) = true ∧
    (ctrlStart (encode W i) = true ↔ i ≠ .nocmd) ∧ ctrlOp (encode W i) = Machine.opOf i

theorem encode_toNat {W : Nat} (hW : 8 ≤ W) (i : Instr) : (encode W i).toNat = ctrlMatch i := by
  have h : 2 ^ 8 ≤ 2 ^ W := Nat.pow_le_pow_right (by omega) hW
  rw [encode, BitVec.toNat_ofNat, Nat.mod_eq_of_lt]
  cases i <;> simp only [ctrlMatch] <;> omega

theorem ctrlOp_toNat {W : Nat} (v : BitVec W) : (ctrlOp v).toNat = v.toNat / 2 % 4 := by
  simp [ctrlOp, BitVec.extractLsb'_toNat, Nat.shiftRight_eq_div_pow]

theorem of_row (i : Instr) (h1 : ctrlMatch i &&& ctrlMask i = ctrlMatch i) (h2 : ctrlMatch i < 8)
    (h3 : (ctrlMatch i).testBit 0 = true ↔ i ≠ .nocmd) (h4 : ctrlMatch i / 2 % 4 = (Machine.opOf i).toNat) :
    Statement i := by
  refine ⟨by cases i <;> rfl, h1, fun W hW => ⟨encode_toNat hW i, ?_, ?_, ?_⟩⟩
  · simpa [ctrlCanonical, encode_toNat hW i] using h2
  · rw [ctrlStart, BitVec.getLsbD, encode_toNat hW i]
    exact h3
  · apply BitVec.eq_of_toNat_eq
    rw [ctrlOp_toNat, encode_toNat hW i, h4]

theorem monmul : Statement .monmul := of_row _ (by decide) (by decide) (by decide) (by decide)
theorem modexp : Statement .modexp := of_row _ (by decide) (by decide) (by decide) (by decide)
theorem reservedOp00 : Statement .reservedOp00 := of_row _ (by decide) (by decide) (by decide) (by decide)
theorem reservedOp11 : Statement .reservedOp11 := of_row _ (by decide) (by decide) (by decide) (by decide)
theorem nocmd : Statement .nocmd := of_row _ (by decide) (by decide) (by decide) (by decide)

end Sys2Proof.Laws.TableRow
end

