-- ==== Sys2Proof/Laws/Runs.lean ====
section
/-! SUPPORT. The runs that the end of a run is defined by: taking the first step off, comparing two runs from one state,
and what a machine whose host program is used up keeps. -/

namespace Sys2Proof.Machine

variable {p : State → Prop} {s t u : State}

/-- The step is a function, so two next states of one state are the same. -/
theorem step_unique (h : step s = .next t) (h' : step s = .next u) : u = t := by
  rw [h] at h'
  injection h' with h'
  exact h'.symm

theorem RunsWhile.head (h : RunsWhile p s t) :
    t = s ∨ ∃ v, p s ∧ Machine.step s = .next v ∧ RunsWhile p v t := by
  induction h with
  | refl => exact .inl rfl
  | snoc _ hp hs ih =>
    rcases ih with rfl | ⟨v, a, b, c⟩
    · exact .inr ⟨_, hp, hs, .refl _⟩
    · exact .inr ⟨v, a, b, .snoc c hp hs⟩

/-- Of two runs from one state, one goes on where the other ends. -/
theorem RunsWhile.comparable (h : RunsWhile p s t) (h' : RunsWhile p s u) : RunsWhile p t u ∨ RunsWhile p u t := by
  induction h' with
  | refl => exact .inr h
  | snoc _ hp hs ih =>
    rcases ih with ih | ih
    · exact .inl (.snoc ih hp hs)
    · rcases ih.head with rfl | ⟨v, -, b, c⟩
      · exact .inl (.snoc (.refl _) hp hs)
      · rw [step_unique hs b] at c
        exact .inr c

/-- A run does not leave a state without p. -/
theorem RunsWhile.blocked (h : RunsWhile p s t) (hp : ¬ p s) : t = s := by
  rcases h.head with h | ⟨-, a, -⟩
  · exact h
  · exact absurd a hp

@[simp] theorem engineTicks_prog (k : Nat) (s : State) : (engineTicks k s).prog = s.prog := by
  induction k generalizing s with
  | zero => rfl
  | succ k ih => exact (ih (engineTick s)).trans (engineTick_frame s).1

theorem nextHostOp_of_prog_nil (h : s.prog = []) : s.nextHostOp = none := by
  unfold State.nextHostOp
  rw [h]
  split <;> (try split) <;> rfl

/-- A program that is used up stays so. -/
theorem step_prog_nil (h : s.prog = []) (hs : step s = .next t) : t.prog = [] := by
  have host : ∀ sched, hostTurn { s with sched := sched } = .next t → t.prog = [] := by
    intro sched e
    simp only [hostTurn, h] at e
    injection e with e
    rw [← e]
  unfold step at hs
  split at hs
  · exact host _ hs
  · injection hs with hs
    rw [← hs, engineTicks_prog]
    exact h
  · injection hs with hs
    rw [← hs]
    exact h
  · split at hs
    · injection hs with hs
      rw [← hs]
      exact (engineTicks_prog 1 s).trans h
    · exact host s.sched hs

end Sys2Proof.Machine
end

