-- ==== Sys2Proof/Tests/Slice0.lean ====
section
/-! SUPPORT. The model's own tests, their expected values from spec/ (95_test_vectors.md unless said otherwise), and
for every obligation with hypotheses a concrete instance that meets them. -/

namespace Sys2Proof.Tests

open Sys2Proof.Machine

/-! ## Well-formedness: what the checks refuse -/

theorem test_buildable : Config.buildable 7 = false ∧ Config.buildable 8 = true := by decide

theorem test_ctrlCanonical : ctrlCanonical (0xFFFFFFF3 : Word) = false ∧ ctrlCanonical (0x8 : Word) = false ∧
    ctrlCanonical (0x7 : Word) = true := by decide

theorem test_record_refused : Record.wellFormed 32 (.write 8 0) = false ∧
    Record.wellFormed 32 (.write 2 0x100000000) = false ∧ Record.wellFormed 32 (.read 8) = false ∧
    hostOpOfRecord (.write 8 0) = none ∧ hostOpOfRecord (.read 8) = none := by decide

/-- Program P1, steps 1 and 7. -/
theorem test_record_accepted : hostOpOfRecord (.write 2 17) = some (.wr 2 17) ∧
    hostOpOfRecord (.read 6) = some (.rd 6) := by decide

theorem test_wellFormed : ∀ i ∈ [Instr.monmul, .modexp, .reservedOp00, .reservedOp11, .nocmd], i.wellFormed = true := by
  decide

/-! ## Decoding: START is bit 0, OP is bits 2..1 (30_encoding.md R70, R71) -/

theorem test_decode_monmul : decode (0b00000000000000000000000000000_01_1 : Word) = .monmul ∧
    decode (0b11111111111111111111111111110_01_1 : Word) = .monmul ∧ decodeTableWord 3 0b01_1 = some .monmul := by decide

theorem test_decode_modexp : decode (0b00000000000000000000000000000_10_1 : Word) = .modexp ∧
    decode (0b11111111111111111111111111111_10_1 : Word) = .modexp ∧ decodeTableWord 3 0b10_1 = some .modexp := by decide

theorem test_decode_reservedOp00 : decode (0b00000000000000000000000000000_00_1 : Word) = .reservedOp00 ∧
    decode (0b00000000000000000000000000001_00_1 : Word) = .reservedOp00 ∧
    decodeTableWord 3 0b00_1 = some .reservedOp00 := by decide

theorem test_decode_reservedOp11 : decode (0b00000000000000000000000000000_11_1 : Word) = .reservedOp11 ∧
    decode (0b11111111111111111111111111111_11_1 : Word) = .reservedOp11 ∧
    decodeTableWord 3 0b11_1 = some .reservedOp11 := by decide

theorem test_decode_nocmd : decode (0b00000000000000000000000000000_00_0 : Word) = .nocmd ∧
    decode (0b11111111111111111111111111111_11_0 : Word) = .nocmd ∧ decodeTableWord 3 0b00_0 = some .nocmd := by decide

/-- A number of more than 32 bits is no CTRL value; 2^32 + 3 is not MONMUL. -/
theorem test_decode_too_wide : decodeTableWord 64 0x100000003 = none := by decide

theorem test_encode : encode 32 .monmul = 0x3 ∧ encode 32 .modexp = 0x5 ∧ encode 32 .reservedOp00 = 0x1 ∧
    encode 32 .reservedOp11 = 0x7 ∧ encode 32 .nocmd = 0x0 ∧ encode 8 .modexp = 0x5 := by decide

/-! ## Arithmetic -/

/-- Vectors V1, V2, V6, V7, V10 (last row) and V13. -/
theorem test_monMul : monMul 17 22 23 5 = 16 ∧ monMul 16 12 23 5 = 6 ∧ monMul 31 31 23 5 = 2 ∧
    monMul 22 22 23 5 = 18 ∧ monMul 128 128 129 8 = 64 ∧ monMul 8 15 3 4 = 3 := by decide

/-- Vector V6, the trace column T. -/
theorem test_monLoop : (List.range 6).map (monLoop 31 31 23) = [0, 4, 6, 7, 19, 2] := by decide

/-- §2.3, rows 3, 23, 3233 and 2^32 − 1. -/
theorem test_parameters :
    [3, 23, 3233, 0xFFFFFFFF].map (fun M => (bitlen M, radixResidue M, radixSquare M)) =
      [(2, 1, 1), (5, 9, 12), (12, 863, 1179), (32, 1, 1)] := by decide

/-- Vectors E1, E6, E8 and E11 (results), with the calls of E1 and E5. -/
theorem test_modExp : modExp 123 17 3233 = 855 ∧ modExp 0 0 23 = 1 ∧ modExp 40 1 23 = 17 ∧ modExp 3 1 3 = 0 ∧
    modExpCalls 17 = 10 ∧ modExpCalls 0 = 3 := by decide +kernel

/-- Vector E1, the rows after iterations 1 and 5. -/
theorem test_expAfter : expAfter 3233 12 17 863 2693 1 = (8, 2693, 1473) ∧
    expAfter 3233 12 17 863 2693 5 = (0, 741, 2144) := by decide +kernel

/-! ## One step -/

/-- A small idle state: the reset state with the operand registers written. -/
abbrev idle (X Y M m : Word) : State :=
  { State.reset with toBlock := { Block.reset Config.W with opa := X, opb := Y, mod := M, bitw := m } }

/-- The state after one step, the same state where the step gave none. -/
abbrev next (s : State) : State :=
  match step s with
  | .next t => t
  | .fault _ => s
  | .refused _ => s

/-- STATUS and RESULT as the host reads them. -/
abbrev seen (s : State) : Nat × Nat := ((s.toBlock.memRead 1).toNat, (s.toBlock.memRead 6).toNat)

/-- Rows H10 and H12: the accept, and the START dropped while busy. -/
theorem test_monmul_accept : seen (next ((idle 17 22 23 5).withFetchWord 32 0xFFFFFFF3)) = (1, 0) ∧
    seen (next (((idle 17 22 23 5).accepted 0b01).withFetchWord 32 0x5)) = (33, 0) := by decide

/-- Vectors C1 and C7. -/
theorem test_monmul_result :
    seen (next { (idle 17 22 23 5).accepted 0b01 with sched := [.engine 7] }) = (2, 16) ∧
    seen (next { (idle 17 22 23 0).accepted 0b01 with sched := [.engine 7] }) = (18, 0) := by decide

/-- Row H15: accepted, the reserved bits ignored, the base register kept; vector E23. -/
theorem test_modexp_accept : seen (next ((idle 17 22 23 5).withFetchWord 32 0xFFFFFFFD)) = (1, 0) ∧
    seen (next { (idle 123 17 3234 0).accepted 0b10 with sched := [.engine 1] }) = (6, 0) := by decide

/-- Vector E8: 38 is 3 + 5·(5 + 2). -/
theorem test_modexp_result :
    seen (next { (idle 40 1 23 0).accepted 0b10 with sched := [.engine 38] }) = (2, 17) := by decide +kernel

/-- Rows H7 and H8. -/
theorem test_reservedOp00 : seen (next (State.reset.withFetchWord 32 0x9)) = (1, 0) ∧
    seen (next { State.reset.accepted 0b00 with sched := [.engine 1] }) = (14, 0) := by decide

/-- 60_exceptions.md R154: "from reset, `wr CTRL, 0x7`". -/
theorem test_reservedOp11 : seen (next (State.reset.withFetchWord 3 0x7)) = (1, 0) ∧
    seen (next { State.reset.accepted 0b11 with sched := [.engine 1] }) = (14, 0) := by decide

/-- Row H6. -/
theorem test_nocmd : ∀ v ∈ [0x0, 0x2, 0x4, 0x8], seen (next (State.reset.withFetchWord 32 v)) = (0, 0) := by decide

/-- Row H4: a write to RESULT is ignored. Row H13: an operand write while busy is stored. -/
theorem test_host_writes : seen (next (State.reset.launch [.wr 6 5] [.host])) = (0, 0) ∧
    (next (((idle 17 22 23 5).accepted 0b01).launch [.wr 2 1] [.host])).opa = 1 ∧
    (next (((idle 17 22 23 5).accepted 0b01).launch [.wr 2 1] [.host])).latch.A = 17 := by decide

/-- Rows H2 and H21. -/
theorem test_reset_event : (List.range 8).map (fun i =>
      ((next { (idle 17 22 23 5).accepted 0b10 with sched := [.reset] }).toBlock.memRead (BitVec.ofNat 3 i)).toNat) =
    [0, 0, 0, 0, 0, 0, 0, 0] := by decide

/-! ## Witnesses: every hypothesis of every obligation can be met

The hypotheses of DecodeWordsOfTheSpec, EveryStepAnswersNext are none. -/

theorem witness_DecodeIsTotalOnTheLowThreeBits : 8 ≤ 8 ∧ (0xFE : BitVec 8).getLsbD 0 = false ∧
    ((0xFB : BitVec 8).getLsbD 0 = true ∧ (0xFB : BitVec 8).extractLsb' 1 2 = 0b01) ∧
    ((0x05 : BitVec 8).getLsbD 0 = true ∧ (0x05 : BitVec 8).extractLsb' 1 2 = 0b10) ∧
    ((0x01 : BitVec 8).getLsbD 0 = true ∧ (0x01 : BitVec 8).extractLsb' 1 2 = 0b00) ∧
    ((0xFF : BitVec 8).getLsbD 0 = true ∧ (0xFF : BitVec 8).extractLsb' 1 2 = 0b11) ∧
    (0xFB : BitVec 8).toNat % 8 = (0x03 : BitVec 8).toNat % 8 := by decide

theorem witness_DecodeMatchesOpcodeTable : 8 ≤ 8 ∧ decode (0xFB : BitVec 8) = .monmul := by decide

theorem witness_DecodeEncodeAgree : 8 ≤ 8 ∧
    (∀ i ∈ [Instr.monmul, .modexp, .reservedOp00, .reservedOp11, .nocmd], i.wellFormed = true) ∧
    (0xF8 : BitVec 8).toNat &&& ctrlMask .monmul = 0 ∧ (0xFE : BitVec 8).toNat &&& ctrlMask .nocmd = 0 ∧
    decode (0xFF : BitVec 8) = .reservedOp11 := by decide

theorem witness_StepRunsDecodedInstruction :
    (∃ s : State, s.prog = [.wr 0 3] ∧ s.sched = [.host]) ∧
    (∃ s : State, s.prog = [.wr 0 3] ∧ s.sched = [] ∧ s.busy = false) ∧ decodeTableWord 3 3 = some .monmul :=
  ⟨⟨State.reset.launch [.wr 0 3] [.host], by decide⟩, ⟨State.reset.launch [.wr 0 3] [], by decide⟩, by decide⟩

theorem witness_StepFollowsTheTurns :
    (∃ s : State, s.sched = [.engine 2] ∧ s.busy = true) ∧ (∃ s : State, s.sched = [.host] ∧ s.prog = []) ∧
    (∃ s : State, s.sched = [] ∧ s.busy = true) ∧ (∃ s : State, s.sched = [] ∧ s.busy = false ∧ s.prog = []) :=
  ⟨⟨(State.reset.accepted 1).launch [] [.engine 2], by decide⟩, ⟨State.reset.launch [] [.host], by decide⟩,
    ⟨State.reset.accepted 1, by decide⟩, ⟨State.reset, by decide⟩⟩

theorem witness_RegisterReadValues : ∀ i : BitVec 3,
    (State.reset.launch [.rd i] [.host]).prog = [.rd i] ∧ (State.reset.launch [.rd i] [.host]).sched = [.host] :=
  fun _ => ⟨rfl, rfl⟩

theorem witness_RegisterWriteEffects :
    (∀ (i : BitVec 3) (v : Word), (State.reset.launch [.wr i v] [.host]).prog = [.wr i v] ∧
      (State.reset.launch [.wr i v] [.host]).sched = [.host]) ∧
    (0xFFFFFFFE : Word).getLsbD 0 = false ∧ (0xFFFFFFFF : Word).getLsbD 0 = true ∧
    (State.reset.launch [.wr 0 3] [.host]).busy = false ∧
    ((State.reset.accepted 1).launch [.wr 0 3] [.host]).busy = true :=
  ⟨fun _ _ => ⟨rfl, rfl⟩, by decide, by decide, by decide, by decide⟩

/-- Not a reset, and no write to the register: a write to the neighbouring register is the next step. The runs of the
third clause: a write, or a reset, and then a read. -/
theorem witness_OperandRegistersArePlainStorage :
    (∃ s t : State, step s = .next t ∧ ¬ s.ResetsNext ∧ (∀ v, s.nextHostOp ≠ some (.wr 2 v)) ∧
      s.nextHostOp = some (.wr 3 7)) ∧
    (∃ s t u : State, step s = .next t ∧ step t = .next u ∧ s.nextHostOp = some (.wr 2 7) ∧ ¬ t.ResetsNext ∧
      ∀ v, t.nextHostOp ≠ some (.wr 2 v)) ∧
    (∃ s t u : State, step s = .next t ∧ step t = .next u ∧ s.ResetsNext ∧ ¬ t.ResetsNext ∧
      ∀ v, t.nextHostOp ≠ some (.wr 2 v)) := by
  refine ⟨⟨State.reset.launch [.wr 3 7] [.host], _, rfl, ?_, fun v h => ?_, rfl⟩,
    ⟨State.reset.launch [.wr 2 7, .rd 2] [.host, .host], _, _, rfl, rfl, rfl, ?_, fun v h => ?_⟩,
    ⟨State.reset.launch [.rd 2] [.reset, .host], _, _, rfl, rfl, ⟨_, rfl⟩, ?_, fun v h => ?_⟩⟩
  · rintro ⟨rest, h⟩
    cases h
  · injection h with h
    injection h with h
    exact absurd h (by decide)
  · rintro ⟨rest, h⟩
    cases h
  · cases h
  · rintro ⟨rest, h⟩
    cases h
  · cases h

theorem witness_ReadsAndWritesAreIdempotent :
    (∃ t, hostStep (.rd 1) State.reset = .next t) ∧ (3 : Word).getLsbD 0 = true ∧ (2 : Word).getLsbD 0 = false ∧
    State.reset.busy = false ∧ (State.reset.accepted 1).busy = true := by
  refine ⟨⟨_, rfl⟩, ?_⟩
  decide

theorem witness_WaitPollsUntilDone :
    (∃ s : State, s.prog = [.wait] ∧ s.sched = [.host] ∧ s.done = true) ∧
    (∃ s : State, s.prog = [.wait] ∧ .reset ∉ s.sched ∧ s.busy = false ∧ s.done = false ∧
      s.sched = [.host, .engine 3, .host]) :=
  ⟨⟨{ State.reset.launch [.wait] [.host] with done := true }, by decide⟩,
    ⟨State.reset.launch [.wait] [.host, .engine 3, .host], by decide⟩⟩

/-! ### States that meet the invariant, and reachable states -/

theorem inv_idle (X Y M m : Word) : (idle X Y M m).toBlock.Inv where
  status := ⟨fun h => (by cases h), fun _ _ => ⟨rfl, rfl, rfl⟩, ⟨fun _ => rfl, fun _ => rfl⟩, .inl rfl⟩
  engine := trivial
  shown := fun h => by cases h

theorem inv_accepted {W : Nat} (b : Block W) (op : BitVec 2) : (b.accept op).Inv where
  status := ⟨fun _ => ⟨rfl, rfl⟩, fun h => (by cases h), ⟨fun h => (by cases h), fun h => (by cases h)⟩, .inl rfl⟩
  engine := trivial
  shown := fun h => by cases h

/-- The state after n steps. -/
abbrev after : Nat → State → State
  | 0, s => s
  | n + 1, s => next (after n s)

theorem reachable_after (prog : List (HostOp Config.W)) (sched : List Turn) (n : Nat) :
    Reachable (after n (State.reset.launch prog sched)) := by
  induction n with
  | zero => exact .clean ⟨rfl, rfl, rfl, rfl, rfl, rfl, rfl, rfl, rfl, rfl⟩
  | succ n ih =>
    change Reachable (next _)
    unfold next
    split
    · exact .step ih ‹_›
    · exact ih
    · exact ih

/-- From reset: MOD is written, then CTRL; then the engine moves k times. The other operands are 0. -/
abbrev ran (M ctrl : Word) (k : Nat) : State := after 3 (State.reset.launch [.wr 4 M, .wr 0 ctrl] [.host, .host, .engine k])

theorem reachable_ran (M ctrl : Word) (k : Nat) : Reachable (ran M ctrl k) := reachable_after _ _ _

/-- The same with a second CTRL write before the engine moves, which is dropped. -/
abbrev ranOvr (M ctrl : Word) (k : Nat) : State :=
  after 4 (State.reset.launch [.wr 4 M, .wr 0 ctrl, .wr 0 ctrl] [.host, .host, .host, .engine k])

theorem reachable_ranOvr (M ctrl : Word) (k : Nat) : Reachable (ranOvr M ctrl k) := reachable_after _ _ _

/-- One reachable state for each row of the table of STATUS values, without and with OVR. -/
theorem witness_StatusReadValue :
    (State.reset.busy = false ∧ State.reset.done = false ∧ Reachable State.reset) ∧
    ((ran 3 3 0).busy = true ∧ (ran 3 3 0).ovr = false) ∧ ((ranOvr 3 3 0).busy = true ∧ (ranOvr 3 3 0).ovr = true) ∧
    ((ran 3 5 15).done = true ∧ (ran 3 5 15).err = 0) ∧ ((ranOvr 3 5 15).err = 0 ∧ (ranOvr 3 5 15).ovr = true) ∧
    ((ran 2 5 1).done = true ∧ (ran 2 5 1).err = 1) ∧ ((ranOvr 2 5 1).err = 1 ∧ (ranOvr 2 5 1).ovr = true) ∧
    ((ran 3 7 1).done = true ∧ (ran 3 7 1).err = 3) ∧ ((ranOvr 3 7 1).err = 3 ∧ (ranOvr 3 7 1).ovr = true) ∧
    ((ran 3 3 1).done = true ∧ (ran 3 3 1).err = 4) ∧ ((ranOvr 3 3 1).err = 4 ∧ (ranOvr 3 3 1).ovr = true) :=
  ⟨⟨rfl, rfl, reachable_after [] [] 0⟩, by decide⟩

theorem witness_StatusReadValue_never_fresh_again :
    ∃ s t, Reachable s ∧ step s = .next t ∧ ¬ s.ResetsNext ∧ (s.busy = true ∨ s.done = true) := by
  refine ⟨ran 3 3 0, _, reachable_ran 3 3 0, rfl, ?_, by decide⟩
  rintro ⟨rest, h⟩
  cases h

/-- A START that is accepted and one that is dropped, a reset, an engine's turn, and a step that is none of them. -/
theorem witness_StatusFieldWriters :
    (∃ s t : State, s.toBlock.Inv ∧ step s = .next t ∧ s.StartsNext ∧ s.busy = false) ∧
    (∃ s t : State, s.toBlock.Inv ∧ step s = .next t ∧ s.StartsNext ∧ s.busy = true) ∧
    (∃ s t : State, s.toBlock.Inv ∧ step s = .next t ∧ s.ResetsNext) ∧
    (∃ s t : State, s.toBlock.Inv ∧ step s = .next t ∧ s.EngineNext ∧ s.busy = true) ∧
    (∃ s t : State, s.toBlock.Inv ∧ step s = .next t ∧ ¬ s.StartsNext ∧ ¬ s.ResetsNext ∧ ¬ s.EngineNext) := by
  refine ⟨⟨(idle 1 2 3 2).launch [.wr 0 3] [.host], _, inv_idle 1 2 3 2, rfl, ⟨3, rfl, by decide⟩, rfl⟩,
    ⟨((idle 1 2 3 2).accepted 1).launch [.wr 0 5] [.host], _, inv_accepted (idle 1 2 3 2).toBlock 1, rfl,
      ⟨5, rfl, by decide⟩, rfl⟩,
    ⟨(idle 1 2 3 2).launch [] [.reset], _, inv_idle 1 2 3 2, rfl, [], rfl⟩,
    ⟨(idle 1 2 3 2).accepted 1, _, inv_accepted (idle 1 2 3 2).toBlock 1, rfl, .inr ⟨rfl, rfl⟩, rfl⟩,
    ⟨idle 1 2 3 2, _, inv_idle 1 2 3 2, rfl, ?_, ?_, ?_⟩⟩
  · rintro ⟨v, h, -⟩
    cases h
  · rintro ⟨rest, h⟩
    cases h
  · rintro (⟨k, rest, h⟩ | ⟨-, h⟩) <;> cases h

theorem witness_DoneSignalIsStatusDone : 8 ≤ 8 ∧ (Block.reset 8).doneSignal = false := by decide

/-! ### Commands -/

/-- Operands at the ends of the contract region: X and Y 0 and 2^m − 1, M smallest and largest. -/
theorem witness_MonmulCompletesWithTheMontgomeryProduct :
    ∀ s ∈ [idle 17 22 23 5, idle 31 31 23 5, idle 0 0 23 5, idle 3 3 3 2, idle 0xFFFFFFFF 1 0xFFFFFFFF 32],
      s.busy = false ∧ ContractRegion s.opa.toNat s.opb.toNat s.mod.toNat s.bitw.toNat := by decide

theorem witness_MonmulOutsideTheContractCompletes :
    ∀ s ∈ [idle 32 22 23 5, idle 22 32 23 5, idle 40 0xFFFFFFFF 23 5],
      s.busy = false ∧ ValidModulus s.mod.toNat ∧ s.bitw.toNat = bitlen s.mod.toNat ∧
      (2 ^ s.bitw.toNat ≤ s.opa.toNat ∨ 2 ^ s.bitw.toNat ≤ s.opb.toNat) := by decide

theorem witness_InvalidModulusRaised : 
    ∀ s ∈ [idle 17 22 0 5, idle 17 22 1 5, idle 17 22 2 5, idle 17 22 22 5, idle 17 22 0xFFFFFFFE 5],
      s.busy = false ∧ (s.mod.toNat % 2 = 0 ∨ s.mod.toNat ≤ 1) := by decide

theorem witness_InvalidBitwidthRaisedByMonmulOnly : 
    ∀ s ∈ [idle 17 22 23 0, idle 17 22 23 4, idle 17 22 23 6, idle 17 22 23 33, idle 17 22 23 0xFFFFFFFF],
      s.busy = false ∧ ValidModulus s.mod.toNat ∧ s.bitw.toNat ≠ bitlen s.mod.toNat := by decide

theorem witness_ReservedCommandsRaiseInvalidCommand : State.reset.busy = false ∧
    ((0x9 : Word).getLsbD 0 = true ∧ (0x9 : Word).extractLsb' 1 2 = 0b00) ∧
    ((0xFFFFFFFF : Word).getLsbD 0 = true ∧ (0xFFFFFFFF : Word).extractLsb' 1 2 = 0b11) := by decide

/-- Every command, and every code of the priority order. -/
theorem witness_CommandReportsTheFirstCode : (idle 17 22 22 0).busy = false ∧
    (∀ i ∈ [Instr.monmul, .modexp, .reservedOp00, .reservedOp11], i ≠ .nocmd) ∧
    firstCode .reservedOp00 0 0 = 3 ∧ firstCode .monmul 22 0 = 1 ∧ firstCode .monmul 23 0 = 4 ∧
    firstCode .modexp 23 0 = 0 := by decide

theorem witness_ModexpComputesThePower :
    ∀ s ∈ [idle 123 17 3233 0, idle 0 0 23 0, idle 0xFFFFFFFF 0xFFFFFFFF 3 0, idle 2 0xFFFFFFFF 0xFFFFFFFF 0],
      s.busy = false ∧ ValidModulus s.mod.toNat := by decide

theorem witness_NocmdHasNoEffect : 
    (∀ v : Word, (State.reset.launch [.wr 0 v] [.host]).prog = [.wr 0 v] ∧
      (State.reset.launch [.wr 0 v] [.host]).sched = [.host]) ∧
    (0x0 : Word).getLsbD 0 = false ∧ (0xFFFFFFFE : Word).getLsbD 0 = false := ⟨fun _ => ⟨rfl, rfl⟩, by decide, by decide⟩

theorem witness_StartWhileBusyIsDropped : (State.reset.accepted 1).busy = true ∧
    ∀ i ∈ [Instr.monmul, .modexp, .reservedOp00, .reservedOp11], i ≠ .nocmd := by decide

/-! ### The engine -/

/-- A MONMUL and a MODEXP that go on, and commands whose next micro-step is the completion. -/
theorem witness_EngineRefinesTheReference :
    ∀ op, ((idle 17 22 23 5).accepted op).toBlock.Inv ∧ ((idle 17 22 23 5).accepted op).busy = true :=
  fun op => ⟨inv_accepted (idle 17 22 23 5).toBlock op, rfl⟩

theorem witness_BlockRefinesTheReferenceAtEveryWidth : 8 ≤ 8 ∧ ((Block.reset 8).accept 0b11).Inv ∧
    ((Block.reset 8).accept 0b11).busy = true := ⟨by decide, inv_accepted _ _, rfl⟩

theorem witness_CommandCompletesExactlyOnce : State.reset.busy = false ∧ Instr.reservedOp00 ≠ .nocmd := by decide

theorem witness_EveryCommandTerminates : (State.reset.accepted 0b10).toBlock.Inv ∧ (State.reset.accepted 0b10).busy = true :=
  ⟨inv_accepted State.reset.toBlock _, rfl⟩

theorem witness_ModexpMicroStepCount :
    ∀ s ∈ [idle 0 0 3 0, idle 123 17 3233 0], s.busy = false ∧ ValidModulus s.mod.toNat := by decide

/-- One state for each code. -/
theorem witness_ErrorCompletionChangesOnlyStatus :
    ∀ s ∈ [State.reset.accepted 0b11, (idle 1 1 2 2).accepted 0b10, (idle 1 1 3 3).accepted 0b01],
      s.busy = true ∧ (engineTick s).busy = false ∧ (engineTick s).err ≠ 0 := by decide

theorem witness_RunningCommandIgnoresOperandWrites : (idle 17 22 23 5).busy = false ∧ Instr.monmul ≠ .nocmd := by decide

theorem witness_NothingCarriesFromCommandToCommand :
    ∃ s s' : State, s.busy = false ∧ s'.busy = false ∧ s'.opa = s.opa ∧ s'.opb = s.opb ∧ s'.mod = s.mod ∧
      s'.bitw = s.bitw ∧ s.opa.toNat < 2 ^ s.bitw.toNat ∧ s.opb.toNat < 2 ^ s.bitw.toNat ∧
      s'.result ≠ s.result ∧ s'.latch ≠ s.latch :=
  ⟨idle 17 22 23 5, { idle 17 22 23 5 with result := 9, latch := { op := 1, A := 1, B := 1, M := 5, m := 3 } },
    by decide⟩

/-- A reset; a completion that changes RESULT (0^0 = 1 modulo 3, 15 micro-steps); an error completion. -/
theorem witness_ResultWrittenOnlyBySuccess :
    (∃ s t : State, s.toBlock.Inv ∧ step s = .next t ∧ s.ResetsNext) ∧
    (∃ s t : State, s.toBlock.Inv ∧ step s = .next t ∧ ¬ s.ResetsNext ∧ t.result ≠ s.result ∧ s.busy = true ∧
      t.busy = false ∧ t.err = 0) ∧
    (∃ s t : State, s.toBlock.Inv ∧ step s = .next t ∧ ¬ s.ResetsNext ∧ s.busy = true ∧ t.busy = false ∧ t.err ≠ 0) := by
  refine ⟨⟨(idle 1 2 3 2).launch [] [.reset], _, inv_idle 1 2 3 2, rfl, [], rfl⟩,
    ⟨((idle 0 0 3 0).accepted 0b10).launch [] [.engine 15], _, inv_accepted (idle 0 0 3 0).toBlock 0b10, rfl, ?_,
      by decide⟩,
    ⟨((idle 0 0 3 0).accepted 0b11).launch [] [.engine 1], _, inv_accepted (idle 0 0 3 0).toBlock 0b11, rfl, ?_,
      by decide⟩⟩ <;>
  · rintro ⟨rest, h⟩
    cases h

theorem witness_CompletedResultIsStable :
    ∃ s t : State, s.toBlock.StatusInv ∧ step s = .next t ∧ ¬ s.ResetsNext ∧ s.done = true ∧ t.done = true := by
  refine ⟨{ idle 1 2 3 2 with done := true, result := 2 }, _,
    ⟨fun h => (by cases h), fun _ h => (by cases h), by decide, .inl rfl⟩, rfl, ?_, rfl, rfl⟩
  rintro ⟨rest, h⟩
  cases h

/-! ### Invariants and reset -/

/-- A clean state whose hidden registers are not 0. -/
theorem witness_ResetMeetsTheInvariant : 8 ≤ 8 ∧
    ∃ b : Block 8, b.Clean ∧ b ≠ Block.reset 8 :=
  ⟨by decide, { Block.reset 8 with latch := { op := 3, A := 1, B := 2, M := 3, m := 4 } },
    ⟨rfl, rfl, rfl, rfl, rfl, rfl, rfl, rfl, rfl, rfl⟩, by decide⟩

theorem witness_StepKeepsTheInvariant :
    ∃ s t : State, s.toBlock.Inv ∧ step s = .next t ∧ t ≠ s :=
  ⟨(idle 17 22 23 5).accepted 1, _, inv_accepted (idle 17 22 23 5).toBlock 1, rfl, by decide⟩

theorem witness_ErrCodesOfReachableStates : Reachable (ran 3 3 1) ∧ (ran 3 3 1).err = 4 :=
  ⟨reachable_ran 3 3 1, by decide⟩

/-- A MODEXP, a MONMUL inside the contract and a MONMUL outside it. -/
theorem witness_DoneWithoutErrorMeansRightResult :
    (∃ s, Reachable s ∧ s.done = true ∧ s.err = 0 ∧ s.latch.op = 0b10) ∧
    (∃ s, Reachable s ∧ s.done = true ∧ s.err = 0 ∧ s.latch.op = 0b01 ∧ s.latch.A.toNat < 2 ^ s.latch.m.toNat ∧
      s.latch.B.toNat < 2 ^ s.latch.m.toNat) ∧
    (∃ s, Reachable s ∧ s.done = true ∧ s.err = 0 ∧ s.latch.op = 0b01 ∧ ¬ s.latch.A.toNat < 2 ^ s.latch.m.toNat) :=
  ⟨⟨ran 3 5 15, reachable_ran 3 5 15, by decide⟩,
    ⟨after 4 (State.reset.launch [.wr 4 3, .wr 5 2, .wr 0 3] [.host, .host, .host, .engine 4]), reachable_after _ _ _,
      by decide⟩,
    ⟨after 5 (State.reset.launch [.wr 2 4, .wr 4 3, .wr 5 2, .wr 0 3] [.host, .host, .host, .host, .engine 4]),
      reachable_after _ _ _, by decide⟩⟩

/-- In the first iteration of the first product, and before its last step. -/
theorem witness_ModexpCallsStayInTheContract :
    (Reachable (ran 3 5 4) ∧ (ran 3 5 4).latch.op = 0b10 ∧ (ran 3 5 4).phase = .mmIter) ∧
    (Reachable (ran 3 5 6) ∧ (ran 3 5 6).latch.op = 0b10 ∧ (ran 3 5 6).phase = .mmFinal) :=
  ⟨⟨reachable_ran 3 5 4, by decide⟩, ⟨reachable_ran 3 5 6, by decide⟩⟩

theorem witness_ResetValues : ((idle 17 22 23 5).launch [] [.reset]).sched = [.reset] := rfl

theorem witness_ResetAbortsTheRunningCommand :
    (((idle 17 22 23 5).accepted 0b10).launch [] [.reset]).busy = true ∧
    (((idle 17 22 23 5).accepted 0b10).launch [] [.reset]).sched = [.reset] := ⟨rfl, rfl⟩

/-! ### Arithmetic -/

/-- 18 is the inverse of 32 modulo 23 (vector V1), and 16 the product. -/
theorem witness_MonMulMeetsTheContract : ContractRegion 17 22 23 5 ∧ 2 ^ 5 * 18 ≡ 1 [MOD 23] ∧
    16 < 23 ∧ 16 ≡ 17 * 22 * 18 [MOD 23] := by decide

theorem witness_PreShiftSumIsEven : 23 % 2 = 1 := by decide

theorem witness_AccumulatorBounds : ContractRegion 31 31 23 5 ∧ ContractRegion 3 3 3 2 := by decide

theorem witness_DatapathNeverTruncates : 8 ≤ 8 ∧
    ((0xFF : BitVec 8).toNat % 2 = 1 ∧ 3 ≤ (0xFF : BitVec 8).toNat ∧ 1 ≤ (8 : BitVec (counterWidth 8)).toNat ∧
      (8 : BitVec (counterWidth 8)).toNat ≤ 8) ∧
    ((3 : BitVec 8).toNat % 2 = 1 ∧ 3 ≤ (3 : BitVec 8).toNat ∧ 1 ≤ (1 : BitVec (counterWidth 8)).toNat) := by decide

theorem witness_BitlenIsTheSmallestWidth : ValidModulus 3 ∧ 3 < 2 ^ 8 ∧ ValidModulus 255 ∧ 255 < 2 ^ 8 := by decide

theorem witness_RadixResidueNeedsOneSubtraction : ValidModulus 3 ∧ ValidModulus 3233 := by decide

theorem witness_RadixSquareByDoublings : ValidModulus 23 ∧ 23 < 2 ^ 8 := by decide

/-- 18 is the inverse of Rm = 9 modulo 23; vectors C1 and C18. -/
theorem witness_DomainConversions :
    (ValidModulus 23 ∧ 17 < 23 ∧ 22 < 23 ∧ radixResidue 23 * 18 ≡ 1 [MOD 23]) ∧
    ∀ s ∈ [idle 17 22 23 5, idle 16 12 23 5], s.busy = false ∧ s.mod = 23 ∧ s.bitw = 5 := by decide

/-- Vectors E8 and E10: a base above 2^m, and one in [M, 2^m). -/
theorem witness_BaseReductionAndMontgomeryOne : ValidModulus 23 ∧ ¬ 40 < 2 ^ bitlen 23 ∧ 30 < 2 ^ bitlen 23 := by decide

theorem witness_ConversionRoundTrip : ValidModulus 23 ∧ 0 < 23 ∧ 22 < 23 := by decide

theorem witness_SquareAndMultiplyLoop : ValidModulus 3233 ∧ 123 < 3233 := by decide

/-! ### The end of a run -/

/-- The machine before a MODEXP of 0^0 modulo 3 whose result is read: the START, 15 micro-steps, the read. -/
abbrev program (sched : List Turn) : State := (idle 0 0 3 0).launch [.wr 0 5, .rd 6] sched

theorem not_reset {s : State} (h : s.sched.head? ≠ some .reset) : ¬ s.ResetsNext := by
  rintro ⟨rest, e⟩
  rw [e] at h
  exact h rfl

/-- A command run, and a program that ends where BUSY = 0. -/
theorem witness_EndOfARun_ends :
    (program [.host, .engine 15, .host]).toBlock.Inv ∧
    (∃ t, CommandRun (program [.host, .engine 15, .host]) t) ∧
    (∃ t, (program [.host, .engine 15, .host]).Ended t ∧ t.result = 1) := by
  refine ⟨inv_idle 0 0 3 0, ⟨next (next (program [.host, .engine 15, .host])), rfl, ⟨5, rfl, by decide⟩, _, rfl,
    .snoc (.refl _) ⟨rfl, not_reset (by decide)⟩ rfl, by decide⟩, ?_⟩
  exact ⟨_, ⟨_, .snoc (.snoc (.refl _) (not_reset (by decide)) rfl) (not_reset (by decide)) rfl,
    ⟨by decide, rfl, rfl⟩, by decide⟩, by decide⟩

/-- Program P5, steps 14 to 17: once the reset has come, the reads that are left are a host program of their own, whose
end state has every register 0. Log entry 20. -/
theorem test_program_after_reset :
    ∃ t, (next (((idle 7 560 561 0).accepted 0b10).launch [.rd 1, .rd 6, .rd 2] [.reset, .host, .host, .host])).Ended t ∧
      t.toBlock.Clean ∧ t.returned = [(2, 0), (6, 0), (1, 0)] :=
  ⟨_, ⟨_, .snoc (.snoc (.refl _) (not_reset (by decide)) rfl) (not_reset (by decide)) rfl,
    ⟨by decide, rfl, rfl⟩, by decide⟩, ⟨rfl, rfl, rfl, rfl, rfl, rfl, rfl, rfl, rfl, rfl⟩, by decide⟩

/-- A program whose last host step leaves BUSY = 1, one a reset interrupts while the command runs, and a `wait` that
can never end. -/
theorem witness_EndOfARun_no_end :
    (∃ u t, Runs (program [.host, .host, .engine 15]) u ∧ u.LastHostStep t ∧ t.busy = true) ∧
    (∃ a, (program [.host, .reset]).busy = false ∧ step (program [.host, .reset]) = .next a ∧ a.busy = true ∧
      a.ResetsNext ∧ Runs (program [.host, .reset]) a ∧ a.prog ≠ [] ∧
      RunsWhile (fun v => v.busy = true ∧ ¬ v.ResetsNext) a a) ∧
    (∃ s : State, s.prog = [.wait] ∧ s.busy = false ∧ s.done = false) :=
  ⟨⟨_, _, .snoc (.refl _) (not_reset (by decide)) rfl, ⟨by decide, rfl, rfl⟩, by decide⟩,
    ⟨_, rfl, rfl, rfl, ⟨[], rfl⟩, .snoc (.refl _) (not_reset (by decide)) rfl, by decide, .refl _⟩,
    ⟨State.reset.launch [.wait] [], by decide⟩⟩

end Sys2Proof.Tests
end

/-! PROOFS. The engine's invariant and what every step keeps, and the obligations of 10_state.md. -/

namespace Sys2Proof.Machine

/-! ### The arithmetic functions -/

section Arithmetic

variable {X Y M m v n : Nat}

theorem bitlen_pos (h : v ≠ 0) : 0 < bitlen v := by simp [bitlen, h]

theorem bitlen_le (h : v < 2 ^ n) : bitlen v ≤ n := by
  unfold bitlen
  split
  · exact Nat.zero_le n
  · exact (Nat.log2_lt ‹_›).2 h

/-- One shift to the right takes off one bit. -/
theorem bitlen_shiftRight_one (h : v ≠ 0) : bitlen v = bitlen (v >>> 1) + 1 := by
  by_cases hv : v >>> 1 = 0
  · obtain rfl : v = 1 := by
      rw [Nat.shiftRight_eq_div_pow] at hv
      omega
    decide
  · rw [bitlen, bitlen, if_neg h, if_neg hv, Nat.log2_eq_succ_log2_shiftRight hv]

/-- The accumulator stays below Y + M (40_montgomery_multiply.md R96). -/
theorem monLoop_lt (hM : 0 < M) (k : Nat) : monLoop X Y M k < Y + M := by
  induction k with
  | zero => exact Nat.add_pos_right Y hM
  | succ k ih => exact monIter_lt hM _ ih

theorem monMul_lt (hM : 0 < M) (hY : Y < M) : monMul X Y M m < M :=
  subOnce_lt (by have := monLoop_lt (X := X) (Y := Y) hM m; omega)

/-- The product of any two W-bit operands is a W-bit value (40_montgomery_multiply.md R96). -/
theorem monMul_lt_two_pow (hM : 0 < M) (hY : Y < 2 ^ n) (hMn : M < 2 ^ n) : monMul X Y M m < 2 ^ n := by
  have := monLoop_lt (X := X) (Y := Y) hM m
  unfold monMul subOnce
  split <;> omega

theorem radixResidue_lt (hM : 0 < M) : radixResidue M < M := Nat.mod_lt _ hM

theorem radixSquare_lt (hM : 0 < M) : radixSquare M < M := Nat.mod_lt _ hM

/-- One iteration of the square-and-multiply loop (41_modular_exponentiation.md R126), the count of those left falling
by one. -/
theorem expLoop_bitlen {E : Nat} (hE : E ≠ 0) (acc bs : Nat) :
    expLoop M m (bitlen E) E acc bs =
      expLoop M m (bitlen (E >>> 1)) (E >>> 1) (if E.testBit 0 then monMul acc bs M m else acc)
        (monMul bs bs M m) := by
  rw [bitlen_shiftRight_one hE, expLoop, if_neg hE]

end Arithmetic

/-! ### What a micro-step writes -/

section EngineCases

variable {W : Nat} {b c d : Block W}

/-- What micro-steps can do to the block of a busy engine (10_state.md R38 to R40): the command is still in progress, or
it has completed, with Z or with an error. -/
inductive Block.EngineCase (b t : Block W) : Prop
  | goesOn (h : b.GoesOn t) (hp : b.phase ≠ .idle → t.phase ≠ .idle)
  | ok (z : BitVec W) (h : b.EndsWith t 0 z)
  | error (e : CommandError) (h : b.EndsWith t e.code b.result)

theorem Block.SameOperands.refl (b : Block W) : b.SameOperands b := ⟨rfl, rfl, rfl, rfl, rfl, rfl⟩

theorem Block.SameOperands.trans (h : b.SameOperands c) (h' : c.SameOperands d) : b.SameOperands d :=
  ⟨h'.opa.trans h.opa, h'.opb.trans h.opb, h'.mod.trans h.mod, h'.bitw.trans h.bitw, h'.ovr.trans h.ovr,
    h'.latch.trans h.latch⟩

theorem Block.GoesOn.endsWith {code : BitVec 3} {z : BitVec W} (h : b.GoesOn c) (h' : c.EndsWith d code z) :
    b.EndsWith d code z :=
  ⟨h.toSameOperands.trans h'.toSameOperands, h'.busy, h'.done, h'.err, h'.result, h'.phase⟩

theorem Block.EngineCase.sameOperands (h : b.EngineCase c) : b.SameOperands c := by
  cases h with
  | goesOn h _ => exact h.toSameOperands
  | ok _ h => exact h.toSameOperands
  | error _ h => exact h.toSameOperands

theorem Block.EngineCase.trans_of_goesOn (h : b.GoesOn c) (hp : b.phase ≠ .idle → c.phase ≠ .idle)
    (h' : c.EngineCase d) : b.EngineCase d := by
  cases h' with
  | goesOn h' hp' =>
    exact .goesOn ⟨h.toSameOperands.trans h'.toSameOperands, h'.busy, h'.done.trans h.done, h'.err.trans h.err,
      h'.result.trans h.result⟩ (hp' ∘ hp)
  | ok z h' => exact .ok z (h.endsWith h')
  | error e h' => exact .error e (h.result ▸ h.endsWith h')

/-- Writing hidden working registers is no change the host can see. -/
theorem Block.engineCase_hidden (mul : Multiplier W) (ex : Exponentiator W) (phase : Phase) (caller : Caller)
    (hb : b.busy = true) (hp : b.phase ≠ .idle → phase ≠ .idle) :
    b.EngineCase { b with mul := mul, ex := ex, phase := phase, caller := caller } :=
  .goesOn ⟨⟨rfl, rfl, rfl, rfl, rfl, rfl⟩, hb, rfl, rfl, rfl⟩ hp

theorem Block.engineCase_complete (mul : Multiplier W) (r : Completion W) :
    b.EngineCase ({ b with mul := mul }.complete r) := by
  cases r with
  | ok z => exact .ok z ⟨⟨rfl, rfl, rfl, rfl, rfl, rfl⟩, rfl, rfl, rfl, rfl, rfl⟩
  | error e => exact .error e ⟨⟨rfl, rfl, rfl, rfl, rfl, rfl⟩, rfl, rfl, rfl, rfl, rfl⟩

theorem loopPhase_ne_idle (E : BitVec W) : loopPhase E ≠ .idle := by
  unfold loopPhase
  split
  · decide
  · split <;> decide

theorem Block.check_cases (hb : b.busy = true) : b.EngineCase b.check := by
  unfold Block.check
  split
  · unfold checkMonmul
    split
    · exact engineCase_complete b.mul (.error .invalidModulus)
    · split
      · exact engineCase_complete b.mul (.error .invalidBitwidth)
      · exact engineCase_hidden _ _ _ _ hb (fun _ => by decide)
  · unfold checkModexp
    split
    · exact engineCase_complete b.mul (.error .invalidModulus)
    · exact engineCase_hidden _ _ _ _ hb (fun _ => by decide)
  · exact engineCase_complete b.mul (.error .invalidCommand)
  · exact engineCase_complete b.mul (.error .invalidCommand)
  · exact engineCase_hidden b.mul b.ex b.phase b.caller hb id

theorem Block.mmFinal_cases (free : BitVec W) (hb : b.busy = true) : b.EngineCase (b.mmFinal free) := by
  unfold Block.mmFinal Block.returnToCaller
  split
  · exact engineCase_complete b.mul.subM (.ok _)
  · exact engineCase_hidden _ _ _ _ hb (fun _ => by decide)
  · exact engineCase_hidden _ _ _ _ hb (fun _ => loopPhase_ne_idle _)
  · exact engineCase_hidden _ _ _ _ hb (fun _ => by decide)
  · exact engineCase_hidden _ _ _ _ hb (fun _ => loopPhase_ne_idle _)
  · exact engineCase_complete b.mul.subM (.ok _)

theorem Block.tick_cases (free : BitVec W) (hb : b.busy = true) : b.EngineCase (b.tick free) := by
  unfold Block.tick
  cases hp : b.phase
  case idle => exact engineCase_hidden b.mul b.ex b.phase b.caller hb id
  case check => exact check_cases hb
  case mmIter =>
    refine engineCase_hidden _ _ _ _ hb fun _ => ?_
    split <;> decide
  case mmFinal => exact mmFinal_cases free hb
  all_goals exact engineCase_hidden _ _ _ _ hb (fun _ => by decide)

end EngineCases

section EngineTicks

variable {s : State}

theorem engineTicks_idle (h : s.busy = false) (k : Nat) : engineTicks k s = s := by
  induction k with
  | zero => rfl
  | succ k ih => rw [engineTicks_succ, ih, engineTick_idle h]

/-- Any number of micro-steps is one of the same cases as a single one: what follows a completion does nothing. -/
theorem engineTicks_cases (h : s.busy = true) (k : Nat) : s.toBlock.EngineCase (engineTicks k s).toBlock := by
  induction k generalizing s with
  | zero => exact Block.engineCase_hidden s.mul s.ex s.phase s.caller h id
  | succ k ih =>
    have first : s.toBlock.EngineCase (engineTick s).toBlock := by
      rw [engineTick_busy h]
      exact Block.tick_cases _ h
    change s.toBlock.EngineCase (engineTicks k (engineTick s)).toBlock
    cases first with
    | goesOn hg hp => exact .trans_of_goesOn hg hp (ih hg.busy)
    | ok z he =>
      rw [engineTicks_idle he.busy]
      exact .ok z he
    | error e he =>
      rw [engineTicks_idle he.busy]
      exact .error e he

theorem engineTicks_sameOperands (k : Nat) (s : State) : s.toBlock.SameOperands (engineTicks k s).toBlock := by
  cases h : s.busy with
  | true => exact (engineTicks_cases h k).sameOperands
  | false =>
    rw [engineTicks_idle h]
    exact .refl _

end EngineTicks

/-! ### The registers of the reference sequencing -/

section EngineInvariant

variable {W : Nat} {b t : Block W} {k : Caller} {E acc bs : Nat}

theorem Block.InModexp.modulus_pos (h : b.InModexp) : 0 < b.latch.M.toNat := by
  have := ((Latch.validModulus_iff _).1 h.2).2
  omega

/-- A block with a valid modulus is wide enough to hold the operand 1. -/
theorem Block.InModexp.toNat_one (h : b.InModexp) : (1 : BitVec W).toNat = 1 := by
  have hM := h.modulus_pos
  refine BitVec.toNat_one (Nat.pos_of_ne_zero fun hW => ?_)
  subst hW
  have := b.latch.M.isLt
  omega

/-- Every caller but MONMUL itself is a phase of a MODEXP whose parameters are filled. -/
theorem Block.CallerReady.paramsFilled (h : b.CallerReady k) (hk : k ≠ .monmul) : b.ParamsFilled := by
  cases k with
  | monmul => exact absurd rfl hk
  | convIn => exact h.1
  | convOne => exact h.1
  | loopMul => exact h.2.1
  | loopSqr => exact h.2.1
  | convOut => exact h.2.1

theorem Block.CallerReady.validModulus (h : b.CallerReady k) : b.latch.validModulus = true := by
  by_cases hk : k = .monmul
  · subst hk
    exact h.2.1
  · exact (h.paramsFilled hk).1.2

theorem Block.CallerReady.modulus_pos (h : b.CallerReady k) : 0 < b.latch.M.toNat := by
  have := ((Latch.validModulus_iff _).1 h.validModulus).2
  omega

/-- What a caller has ready is in the latch and in the exponentiator. -/
theorem Block.CallerReady.congr (hl : t.latch = b.latch) (he : t.ex = b.ex) (h : b.CallerReady k) :
    t.CallerReady k := by
  cases b
  cases t
  dsimp only at hl he
  subst hl he
  exact h

theorem Block.LoopOnPath.next (h : b.LoopOnPath E acc bs) (hE : E ≠ 0) :
    b.LoopOnPath (E >>> 1)
      (if E.testBit 0 then monMul acc bs b.latch.M.toNat (bitlen b.latch.M.toNat) else acc)
      (monMul bs bs b.latch.M.toNat (bitlen b.latch.M.toNat)) := by
  obtain ⟨hp, hacc, hbs, hloop⟩ := h
  have hM := hp.1.modulus_pos
  refine ⟨hp, ?_, monMul_lt hM hbs, (expLoop_bitlen hE acc bs).symm.trans hloop⟩
  split
  · exact monMul_lt hM hbs
  · exact hacc

/-- Wherever the loop goes next (41_modular_exponentiation.md R135, step 6), that phase finds its registers. -/
theorem Block.loopPhase_engineInv (hp : b.phase = loopPhase b.ex.E)
    (h : b.LoopOnPath b.ex.E.toNat b.ex.acc.toNat b.ex.bs.toNat) : b.EngineInv := by
  by_cases h0 : b.ex.E = 0
  · simp only [Block.EngineInv, hp, loopPhase, if_pos h0]
    rw [h0] at h
    exact ⟨h0, h⟩
  · by_cases hbit : b.ex.E.getLsbD 0 = true
    · simp only [Block.EngineInv, hp, loopPhase, if_neg h0, if_pos hbit]
      exact ⟨hbit, h⟩
    · simp only [Block.EngineInv, hp, loopPhase, if_neg h0, if_neg hbit]
      have hnext := h.next fun e => h0 (BitVec.eq_of_toNat_eq e)
      rw [if_neg (show ¬ b.ex.E.toNat.testBit 0 = true from hbit)] at hnext
      exact ⟨h.2.2.1, hnext⟩

/-! ### The multiplier -/

/-- A Montgomery product begins with its caller's registers (40_montgomery_multiply.md R103). -/
theorem Block.startMonMul_engineInv {X Y : BitVec W} {m : BitVec (counterWidth W)} (hr : b.CallerReady k)
    (ho : (b.startMonMul k X Y b.latch.M m).OperandsOf k) : (b.startMonMul k X Y b.latch.M m).EngineInv := by
  refine ⟨.congr rfl rfl hr, ho, ?_, rfl⟩
  change 0 < m.toNat
  rw [show m.toNat = bitlen b.latch.M.toNat from ho.2.1]
  exact bitlen_pos (by have := hr.modulus_pos; omega)

theorem Block.OperandsOf.modulus_pos (ho : b.OperandsOf k) (hr : b.CallerReady k) : 0 < b.mul.M.toNat := by
  rw [ho.1]
  exact hr.modulus_pos

/-- One iteration leads from the accumulator after i iterations to the one after i + 1. -/
theorem Block.mmIter_engineInv (hp : b.phase = .mmIter) (h : b.EngineInv) : b.mmIter.EngineInv := by
  simp only [Block.EngineInv, hp] at h
  obtain ⟨hr, ho, hi, hT⟩ := h
  have hM := ho.modulus_pos hr
  have hT' : b.mul.iterate.T.toNat =
      monLoop b.mul.X.toNat b.mul.Y.toNat b.mul.M.toNat (b.mul.i.toNat + 1) := by
    rw [Multiplier.iterate_T _ (by rw [hT]; exact monLoop_lt hM _), hT]
    rfl
  have hi' : b.mul.iterate.i.toNat = b.mul.i.toNat + 1 := by
    have := b.mul.m.isLt
    have hone : (1 : BitVec (counterWidth W)).toNat = 1 := BitVec.toNat_one (Nat.succ_pos _)
    rw [Multiplier.iterate_i, BitVec.toNat_add, hone, Nat.mod_eq_of_lt (by omega)]
  have hr' : b.mmIter.CallerReady b.mmIter.caller := .congr rfl rfl hr
  have ho' : b.mmIter.OperandsOf b.mmIter.caller := by
    simpa [Block.OperandsOf] using ho
  by_cases hlast : b.mul.i.toNat + 1 = b.mul.m.toNat
  · have hphase : b.mmIter.phase = .mmFinal := by
      rw [Block.mmIter_phase, if_pos (BitVec.eq_of_toNat_eq (by rw [hi', hlast, Multiplier.iterate_m]))]
    simp only [Block.EngineInv, hphase]
    exact ⟨hr', ho', by simpa [hlast] using hT'⟩
  · have hphase : b.mmIter.phase = .mmIter := by
      rw [Block.mmIter_phase, if_neg (fun e => hlast (by rw [← hi', e, Multiplier.iterate_m]))]
    simp only [Block.EngineInv, hphase, Block.mmIter_mul, Multiplier.iterate_X, Multiplier.iterate_Y,
      Multiplier.iterate_M, Multiplier.iterate_m, hi']
    exact ⟨hr', ho', by omega, hT'⟩

/-- The value MM_FINAL returns: the Montgomery product of the operands, cut to W bits without loss. -/
theorem Block.mmFinal_product (hr : b.CallerReady k) (ho : b.OperandsOf k)
    (hT : b.mul.T.toNat = monLoop b.mul.X.toNat b.mul.Y.toNat b.mul.M.toNat b.mul.m.toNat) :
    (b.mul.subM.T.setWidth W).toNat =
      monMul b.mul.X.toNat b.mul.Y.toNat b.latch.M.toNat (bitlen b.latch.M.toNat) := by
  have hM := ho.modulus_pos hr
  have h : b.mul.subM.T.toNat = monMul b.mul.X.toNat b.mul.Y.toNat b.mul.M.toNat b.mul.m.toNat := by
    rw [Multiplier.subM_T, hT]
    rfl
  rw [toNat_setWidth_of_lt (by rw [h]; exact monMul_lt_two_pow hM b.mul.Y.isLt b.mul.M.isLt), h, ho.1, ho.2.1]

end EngineInvariant

/-! ### The completion of a latched command -/

section Completions

variable {W : Nat} {L : Latch W}

theorem Latch.completion_monmul (free : BitVec W) (hc : L.command = .monmul) :
    L.completion free = L.monmulCompletion free := by
  simp [Latch.completion, hc]

theorem Latch.completion_modexp (free : BitVec W) (hc : L.command = .modexp) :
    L.completion free = L.modexpCompletion := by
  simp [Latch.completion, hc]

theorem Latch.completion_reserved (free : BitVec W) (hc : L.command = .reservedOp00 ∨ L.command = .reservedOp11) :
    L.completion free = .error .invalidCommand := by
  rcases hc with hc | hc <;> simp [Latch.completion, hc]

theorem Latch.completion_invalidModulus (free : BitVec W) (hc : L.command = .monmul ∨ L.command = .modexp)
    (hv : L.validModulus = false) : L.completion free = .error .invalidModulus := by
  rcases hc with hc | hc
  · simp [completion_monmul free hc, Latch.monmulCompletion, hv]
  · simp [completion_modexp free hc, Latch.modexpCompletion, hv]

theorem Latch.completion_invalidBitwidth (free : BitVec W) (hc : L.command = .monmul)
    (hv : L.validModulus = true) (hm : L.validBitwidth = false) :
    L.completion free = .error .invalidBitwidth := by
  simp [completion_monmul free hc, Latch.monmulCompletion, hv, hm]

theorem Latch.completion_monmul_ok (free : BitVec W) (hc : L.command = .monmul) (hv : L.validModulus = true)
    (hm : L.validBitwidth = true) :
    L.completion free = .ok (if L.operandsInRange then
      BitVec.ofNat W (monMul L.A.toNat L.B.toNat L.M.toNat L.m.toNat) else free) := by
  cases hr : L.operandsInRange <;> simp [completion_monmul free hc, Latch.monmulCompletion, hv, hm, hr]

theorem Latch.completion_modexp_ok (free : BitVec W) (hc : L.command = .modexp) (hv : L.validModulus = true) :
    L.completion free = .ok (BitVec.ofNat W (modExp L.A.toNat L.B.toNat L.M.toNat)) := by
  simp [completion_modexp free hc, Latch.modexpCompletion, hv]

end Completions

/-! ### A micro-step keeps the registers and ends as the reference does -/

section Advances

variable {W : Nat} {b t : Block W} {free : BitVec W} {k : Caller}

/-- A micro-step from b may lead to t: the registers are those of the reference sequencing, and if the command is over,
STATUS and RESULT show the completion of its pseudocode (10_state.md R38 to R40). -/
def Block.Advances (free : BitVec W) (b t : Block W) : Prop :=
  t.EngineInv ∧ (t.busy = false → (b.latch.completion free).shownBy t)

theorem Block.advances_of_busy (hb : t.busy = true) (h : t.EngineInv) : b.Advances free t :=
  ⟨h, fun h' => by rw [hb] at h'; cases h'⟩

theorem Block.advances_complete (c : Block W) (r : Completion W) (h : b.latch.completion free = r) :
    b.Advances free (c.complete r) := by
  subst h
  cases hr : b.latch.completion free with
  | ok z => exact ⟨trivial, fun _ => by rw [hr]; exact ⟨rfl, rfl⟩⟩
  | error e => exact ⟨trivial, fun _ => by rw [hr]; exact (rfl : e.code = e.code)⟩

theorem bitlen_setWidth_counterWidth {m M : BitVec W} (h : m.toNat = bitlen M.toNat) :
    (m.setWidth (counterWidth W)).toNat = bitlen M.toNat := by
  have hW := lt_two_pow_counterWidth W
  have hM := bitlen_le M.isLt
  rw [toNat_setWidth_of_lt (by omega), h]

theorem Block.check_advances (hb : b.busy = true) : b.Advances free b.check := by
  unfold Block.check
  split
  case h_1 hc =>
    unfold checkMonmul
    cases hv : b.latch.validModulus with
    | false => exact advances_complete b (.error _) (Latch.completion_invalidModulus free (.inl hc) hv)
    | true =>
      cases hm : b.latch.validBitwidth with
      | false => exact advances_complete b (.error _) (Latch.completion_invalidBitwidth free hc hv hm)
      | true =>
        have hm' := bitlen_setWidth_counterWidth (of_decide_eq_true hm)
        exact advances_of_busy hb (startMonMul_engineInv (k := .monmul) ⟨hc, hv, hm⟩ ⟨rfl, hm', rfl, rfl⟩)
  case h_2 hc =>
    unfold checkModexp
    cases hv : b.latch.validModulus with
    | false => exact advances_complete b (.error _) (Latch.completion_invalidModulus free (.inr hc) hv)
    | true => exact advances_of_busy hb ⟨hc, hv⟩
  case h_3 hc => exact advances_complete b (.error _) (Latch.completion_reserved free (.inl hc))
  case h_4 hc => exact advances_complete b (.error _) (Latch.completion_reserved free (.inr hc))
  case h_5 hc => exact absurd hc (commandOfOp_ne_nocmd _)

/-- PARAM fits its three values into their registers. -/
theorem Block.param_paramsFilled (h : b.InModexp) : b.param.ParamsFilled := by
  have hM := b.latch.M.isLt
  have hW := lt_two_pow_counterWidth W
  have hm := bitlen_le hM
  have hRm := radixResidue_lt h.modulus_pos
  have hRR := radixSquare_lt h.modulus_pos
  refine ⟨h, ?_, ?_, ?_⟩ <;> rw [Block.param_ex, Block.param_latch] <;>
    exact (BitVec.toNat_ofNat ..).trans (Nat.mod_eq_of_lt (by omega))

/-- A phase of the exponentiator starts its product with the bit width PARAM has found. -/
theorem Block.exMonMul_advances {X Y : BitVec W} (hb : b.busy = true) (hr : b.CallerReady k)
    (ho : (b.exMonMul k X Y).OperandsOf k) : b.Advances free (b.exMonMul k X Y) :=
  advances_of_busy hb (startMonMul_engineInv hr ho)

/-! What each caller does with the product it gets: the value the next phase expects, or the result. -/

theorem completeMonmul_advances (hr : b.CallerReady .monmul)
    (hZ : (b.mul.T.setWidth W).toNat =
      monMul b.latch.A.toNat b.latch.B.toNat b.latch.M.toNat (bitlen b.latch.M.toNat)) :
    b.Advances free (completeMonmul free b) := by
  obtain ⟨hc, hv, hm⟩ := hr
  refine Block.advances_complete b (.ok _) ?_
  rw [Latch.completion_monmul_ok free hc hv hm, of_decide_eq_true hm, ← hZ, BitVec.ofNat_toNat, BitVec.setWidth_eq]

theorem Block.returnConvIn_engineInv (hr : b.CallerReady .convIn)
    (hZ : (b.mul.T.setWidth W).toNat =
      monMul b.ex.b.toNat b.ex.RR.toNat b.latch.M.toNat (bitlen b.latch.M.toNat)) : b.returnConvIn.EngineInv := by
  obtain ⟨hf, hB⟩ := hr
  rw [hB, hf.2.2.2] at hZ
  exact ⟨hf, hZ⟩

theorem Block.returnConvOne_engineInv (hr : b.CallerReady .convOne)
    (hZ : (b.mul.T.setWidth W).toNat =
      monMul (1 : BitVec W).toNat b.ex.RR.toNat b.latch.M.toNat (bitlen b.latch.M.toNat)) :
    b.returnConvOne.EngineInv := by
  obtain ⟨hf, hbs⟩ := hr
  have hM := hf.1.modulus_pos
  have hRR := radixSquare_lt hM
  rw [hf.1.toNat_one, hf.2.2.2] at hZ
  refine loopPhase_engineInv rfl ⟨hf, ?_, ?_, ?_⟩
  · exact hZ.trans_lt (monMul_lt hM hRR)
  · exact hbs.trans_lt (monMul_lt hM hRR)
  · exact congrArg₂ (expLoop _ _ _ _) hZ hbs

theorem Block.returnLoopMul_engineInv (hr : b.CallerReady .loopMul)
    (hZ : (b.mul.T.setWidth W).toNat =
      monMul b.ex.acc.toNat b.ex.bs.toNat b.latch.M.toNat (bitlen b.latch.M.toNat)) :
    b.returnLoopMul.EngineInv := by
  obtain ⟨hbit, hl⟩ := hr
  have hE : b.ex.E.toNat ≠ 0 := fun e => by
    rw [BitVec.getLsbD, e, Nat.zero_testBit] at hbit
    cases hbit
  have hnext := hl.next hE
  rw [if_pos (show b.ex.E.toNat.testBit 0 = true from hbit), ← hZ] at hnext
  exact ⟨hl.2.2.1, hnext⟩

theorem Block.returnLoopSqr_engineInv (hr : b.CallerReady .loopSqr)
    (hZ : (b.mul.T.setWidth W).toNat =
      monMul b.ex.bs.toNat b.ex.bs.toNat b.latch.M.toNat (bitlen b.latch.M.toNat)) :
    b.returnLoopSqr.EngineInv := by
  obtain ⟨-, hl⟩ := hr
  rw [← hZ, ← BitVec.toNat_ushiftRight] at hl
  exact loopPhase_engineInv rfl hl

theorem completeModexp_advances (hr : b.CallerReady .convOut)
    (hZ : (b.mul.T.setWidth W).toNat =
      monMul b.ex.acc.toNat (1 : BitVec W).toNat b.latch.M.toNat (bitlen b.latch.M.toNat)) :
    b.Advances free (completeModexp b) := by
  obtain ⟨-, hf, -, -, hloop⟩ := hr
  have hacc : b.ex.acc.toNat = expLoop b.latch.M.toNat (bitlen b.latch.M.toNat) (bitlen b.latch.B.toNat)
      b.latch.B.toNat b.latch.acc0 b.latch.bs0 := hloop
  have hresult : (b.mul.T.setWidth W).toNat = modExp b.latch.A.toNat b.latch.B.toNat b.latch.M.toNat := by
    rw [hZ, hf.1.toNat_one, hacc]
    rfl
  refine Block.advances_complete b (.ok _) ?_
  rw [Latch.completion_modexp_ok free hf.1.1 hf.1.2, ← hresult, BitVec.ofNat_toNat, BitVec.setWidth_eq]

theorem Block.mmFinal_advances (hb : b.busy = true) (hp : b.phase = .mmFinal) (h : b.EngineInv) :
    b.Advances free (b.mmFinal free) := by
  simp only [Block.EngineInv, hp] at h
  obtain ⟨hr, ho, hT⟩ := h
  have hZ := mmFinal_product hr ho hT
  obtain ⟨-, -, hXY⟩ := ho
  have hr' : { b with mul := b.mul.subM }.CallerReady b.caller := .congr rfl rfl hr
  unfold Block.mmFinal Block.returnToCaller
  dsimp only
  cases hk : b.caller <;> rw [hk] at hr' hXY <;> dsimp only at hXY <;> rw [hXY.1, hXY.2] at hZ
  case monmul => exact completeMonmul_advances hr' hZ
  case convIn => exact advances_of_busy hb (returnConvIn_engineInv hr' hZ)
  case convOne => exact advances_of_busy hb (returnConvOne_engineInv hr' hZ)
  case loopMul => exact advances_of_busy hb (returnLoopMul_engineInv hr' hZ)
  case loopSqr => exact advances_of_busy hb (returnLoopSqr_engineInv hr' hZ)
  case convOut => exact completeModexp_advances hr' hZ

/-- One micro-step of a busy engine, phase by phase. -/
theorem Block.tick_advances (hb : b.busy = true) (h : b.EngineInv) (hidle : b.phase ≠ .idle) :
    b.Advances free (b.tick free) := by
  unfold Block.tick
  cases hp : b.phase <;> dsimp only
  case idle => exact absurd hp hidle
  case check => exact check_advances hb
  case mmIter => exact advances_of_busy hb (mmIter_engineInv hp h)
  case mmFinal => exact mmFinal_advances hb hp h
  all_goals simp only [Block.EngineInv, hp] at h
  case param => exact advances_of_busy hb (param_paramsFilled h)
  case reduce => exact advances_of_busy hb ⟨h, BitVec.toNat_umod⟩
  all_goals exact exMonMul_advances hb h ⟨rfl, (h.paramsFilled (by decide)).2.1, rfl, rfl⟩

end Advances

/-! ### Every step keeps the invariant -/

section Invariant

variable {W : Nat} {b t : Block W} {s u : State}

theorem CommandError.code_cases (e : CommandError) : e.code = 1 ∨ e.code = 3 ∨ e.code = 4 := by
  cases e <;> decide

theorem Block.EndsWith.statusInv {code : BitVec 3} {z : BitVec W} (h : b.EndsWith t code z)
    (hc : code = 0 ∨ code = 1 ∨ code = 3 ∨ code = 4) : t.StatusInv where
  busy_clear hb := absurd (h.busy.symm.trans hb) (by decide)
  fresh _ hd := absurd (h.done.symm.trans hd) (by decide)
  phase_idle := ⟨fun _ => h.busy, fun _ => h.phase⟩
  err_codes := h.err ▸ hc

theorem Block.EngineCase.statusInv (h : b.EngineCase t) (hb : b.busy = true) (hi : b.StatusInv) : t.StatusInv := by
  cases h with
  | goesOn h hp =>
    have hidle : b.phase ≠ .idle := fun e => absurd (hb.symm.trans (hi.phase_idle.1 e)) (by decide)
    exact
      { busy_clear := fun _ => ⟨h.done.trans (hi.busy_clear hb).1, h.err.trans (hi.busy_clear hb).2⟩
        fresh := fun hb' => absurd (h.busy.symm.trans hb') (by decide)
        phase_idle := ⟨fun e => absurd e (hp hidle), fun e => absurd (h.busy.symm.trans e) (by decide)⟩
        err_codes := .inl (h.err.trans (hi.busy_clear hb).2) }
  | ok z h => exact h.statusInv (.inl rfl)
  | error e h => exact h.statusInv (.inr e.code_cases)

theorem Block.tick_inv (free : BitVec W) (h : b.Inv) (hb : b.busy = true) : (b.tick free).Inv := by
  have hidle : b.phase ≠ .idle := fun e => absurd (hb.symm.trans (h.status.phase_idle.1 e)) (by decide)
  have hcase := Block.tick_cases free hb
  obtain ⟨hengine, hshown⟩ := Block.tick_advances (free := free) hb h.engine hidle
  refine ⟨hcase.statusInv hb h.status, hengine, fun hdone => ⟨free, ?_⟩⟩
  rw [hcase.sameOperands.latch]
  refine hshown ?_
  cases hcase with
  | goesOn hg _ => exact absurd ((hg.done.trans (h.status.busy_clear hb).1).symm.trans hdone) (by decide)
  | ok _ he => exact he.busy
  | error _ he => exact he.busy

/-- A completion shown with ERR = 0 is the success with RESULT. -/
theorem Completion.eq_ok_of_shownBy {r : Completion W} (h : r.shownBy b) (herr : b.err = 0) : r = .ok b.result := by
  cases r with
  | ok z => exact congrArg Completion.ok h.2.symm
  | error e => exact absurd (h.symm.trans herr) e.code_ne_zero

theorem engineTick_inv (h : s.toBlock.Inv) : (engineTick s).toBlock.Inv := by
  cases hb : s.busy with
  | true =>
    rw [engineTick_busy hb]
    exact Block.tick_inv _ h hb
  | false =>
    rw [engineTick_idle hb]
    exact h

theorem engineTicks_inv (k : Nat) (h : s.toBlock.Inv) : (engineTicks k s).toBlock.Inv := by
  induction k with
  | zero => exact h
  | succ k ih =>
    rw [engineTicks_succ]
    exact engineTick_inv ih

/-- The hidden registers of a clean block may hold anything (10_state.md R42). -/
theorem Block.Clean.inv (h : b.Clean) : b.Inv := by
  obtain ⟨-, -, -, -, hresult, hbusy, hdone, herr, hovr, hphase⟩ := h
  refine ⟨⟨fun hb => ?_, fun _ _ => ⟨herr, hovr, hresult⟩, ⟨fun _ => hbusy, fun _ => hphase⟩, .inl herr⟩, ?_,
    fun hd => ?_⟩
  · exact absurd (hbusy.symm.trans hb) (by decide)
  · simp only [Block.EngineInv, hphase]
  · exact absurd (hdone.symm.trans hd) (by decide)

theorem Block.reset_clean (W : Nat) : (Block.reset W).Clean := ⟨rfl, rfl, rfl, rfl, rfl, rfl, rfl, rfl, rfl, rfl⟩

theorem Block.writeSlot_inv (r : Slot) (v : BitVec W) (h : b.Inv) : (b.writeSlot r v).Inv := by
  obtain ⟨⟨hbusy, hfresh, hphase, herr⟩, hengine, hshown⟩ := h
  cases r <;> exact ⟨⟨hbusy, hfresh, hphase, herr⟩, hengine, hshown⟩

theorem Block.start_inv (op : BitVec 2) (h : b.Inv) : (b.start op).Inv := by
  cases hb : b.busy with
  | true =>
    obtain ⟨⟨hbusy, -, hphase, herr⟩, hengine, hshown⟩ := h
    rw [start_busy op hb]
    exact ⟨⟨hbusy, fun hb' => absurd (hb.symm.trans hb') (by decide), hphase, herr⟩, hengine, hshown⟩
  | false =>
    rw [start_idle op hb]
    exact
      { status := ⟨fun _ => ⟨rfl, rfl⟩, nofun, ⟨nofun, nofun⟩, .inl rfl⟩
        engine := trivial
        shown := nofun }

theorem HostCase.inv {op : HostOp Config.W} {b t : Block Config.W} (h : HostCase op b t) (hb : b.Inv) : t.Inv := by
  cases h with
  | same ht _ _ => exact ht ▸ hb
  | slot i v _ _ ht => exact ht ▸ Block.writeSlot_inv _ v hb
  | start v _ _ ht => exact ht ▸ Block.start_inv _ hb

theorem step_inv (h : s.toBlock.Inv) (hs : step s = .next u) : u.toBlock.Inv := by
  cases step_cases hs with
  | reset _ ht => exact ht ▸ (Block.reset_clean Config.W).inv
  | engine k sched _ ht =>
    subst ht
    exact engineTicks_inv k (s := { s with sched := sched }) h
  | host op s' _ hb ht => exact (hostStep_cases ht).inv (hb ▸ h)
  | none _ _ _ ht => exact ht ▸ h

theorem Reachable.inv (h : Reachable s) : s.toBlock.Inv := by
  induction h with
  | clean h => exact h.inv
  | step _ hs ih => exact step_inv ih hs

end Invariant

/-! ### Which agent a step is, and what its step does -/

section Agents

variable {s t : State} {op : HostOp Config.W}

theorem step_resetsNext (h : s.ResetsNext) (hs : step s = .next t) : t.toBlock = Block.reset Config.W := by
  obtain ⟨sched, h⟩ := h
  simp only [step, h] at hs
  injection hs with hs
  rw [← hs]
  rfl

theorem step_engineNext (h : s.EngineNext) (hs : step s = .next t) :
    ∃ k sched, t = engineTicks k { s with sched := sched } := by
  obtain ⟨k, sched, h⟩ | ⟨h, hb⟩ := h
  · simp only [step, h] at hs
    injection hs with hs
    exact ⟨k, sched, hs.symm⟩
  · simp only [step, h, hb] at hs
    injection hs with hs
    exact ⟨1, s.sched, hs.symm⟩

theorem nextHostOp_of_resetsNext (h : s.ResetsNext) : s.nextHostOp = none := by
  obtain ⟨sched, h⟩ := h
  simp [State.nextHostOp, h]

theorem nextHostOp_of_engineNext (h : s.EngineNext) : s.nextHostOp = none := by
  obtain ⟨k, sched, h⟩ | ⟨h, hb⟩ := h
  · simp [State.nextHostOp, h]
  · simp [State.nextHostOp, h, hb]

theorem step_nextHostOp (h : s.nextHostOp = some op) (hs : step s = .next t) :
    ∃ s' : State, s'.toBlock = s.toBlock ∧ hostStep op s' = .next t := by
  cases step_cases hs with
  | reset hr _ => cases (nextHostOp_of_resetsNext hr).symm.trans h
  | engine _ _ he _ => cases (nextHostOp_of_engineNext he).symm.trans h
  | host op' s' h' hb ht =>
    cases h'.symm.trans h
    exact ⟨s', hb, ht⟩
  | none h' _ _ _ => cases h'.symm.trans h

/-- A CTRL write with START = 1 has the effect of its OP on the block (10_state.md R37). -/
theorem step_startsNext (h : s.StartsNext) (hs : step s = .next t) : ∃ op, t.toBlock = s.toBlock.start op := by
  obtain ⟨v, hop, hv⟩ := h
  obtain ⟨s', hb, ht⟩ := step_nextHostOp hop hs
  change memWrite 0 v s' = _ at ht
  rw [memWrite_ctrl, decode_start hv, exec_command (commandOfOp_ne_nocmd _), opOf_commandOfOp] at ht
  injection ht with ht
  exact ⟨v.extractLsb' 1 2, by rw [← ht, ← hb]⟩

/-- A host step that is no START writes nothing of STATUS (10_state.md R28 to R31). -/
theorem HostCase.status_of_not_start {b t : Block Config.W} (h : HostCase op b t)
    (hn : ¬ ∃ v, op = .wr 0 v ∧ v.getLsbD 0 = true) :
    t.busy = b.busy ∧ t.done = b.done ∧ t.err = b.err ∧ t.ovr = b.ovr := by
  cases h with
  | same ht _ _ => exact ht ▸ ⟨rfl, rfl, rfl, rfl⟩
  | slot i v _ _ ht =>
    obtain ⟨-, hbusy, hdone, herr, hovr, -⟩ := Block.writeSlot_frame (Slot.ofIndex i) v b
    exact ht ▸ ⟨hbusy, hdone, herr, hovr⟩
  | start v ho hv _ => exact absurd ⟨v, ho, hv⟩ hn

/-- No host step writes RESULT or ends a command, and none makes a block with a command behind it look fresh. -/
theorem HostCase.command_kept {b t : Block Config.W} (h : HostCase op b t) :
    t.result = b.result ∧ (b.busy = true → t.busy = true) ∧
      (b.done = true → t.busy = true ∨ t.done = true) := by
  cases h with
  | same ht _ _ => exact ht ▸ ⟨rfl, id, .inr⟩
  | slot i v _ _ ht =>
    obtain ⟨hresult, hbusy, hdone, -⟩ := Block.writeSlot_frame (Slot.ofIndex i) v b
    rw [ht, hresult, hbusy, hdone]
    exact ⟨rfl, id, .inr⟩
  | start v _ _ ht =>
    cases hb : b.busy with
    | true =>
      rw [ht, Block.start_busy _ hb]
      exact ⟨rfl, fun _ => hb, fun _ => .inl hb⟩
    | false =>
      rw [ht, Block.start_idle _ hb]
      exact ⟨rfl, fun _ => rfl, fun _ => .inl rfl⟩

/-- Without a reset, either a busy engine moves, or RESULT stays, a command in progress stays in progress and a
completed one stays completed or is followed by the next. -/
theorem step_command (hs : step s = .next t) (hr : ¬ s.ResetsNext) :
    (s.busy = true ∧ s.toBlock.EngineCase t.toBlock) ∨
      (t.result = s.result ∧ (s.busy = true → t.busy = true) ∧
        (s.done = true → t.busy = true ∨ t.done = true)) := by
  cases step_cases hs with
  | reset h _ => exact absurd h hr
  | engine k sched _ ht =>
    subst ht
    cases hb : s.busy with
    | true => exact .inl ⟨rfl, engineTicks_cases (s := { s with sched := sched }) hb k⟩
    | false =>
      rw [engineTicks_idle (s := { s with sched := sched }) hb]
      exact .inr ⟨rfl, nofun, .inr⟩
  | host op s' _ hb ht =>
    have h := (hostStep_cases ht).command_kept
    rw [hb] at h
    exact .inr h
  | none _ _ _ ht =>
    rw [ht]
    exact .inr ⟨rfl, id, .inr⟩

/-- Only a completion takes BUSY from 1 to 0 without a reset. -/
theorem step_completes (hs : step s = .next t) (hr : ¬ s.ResetsNext) (hb : s.busy = true) (hidle : t.busy = false) :
    (∃ z, s.toBlock.EndsWith t.toBlock 0 z) ∨ ∃ e : CommandError, s.toBlock.EndsWith t.toBlock e.code s.result := by
  rcases step_command hs hr with ⟨-, hcase⟩ | ⟨-, hbusy, -⟩
  · cases hcase with
    | goesOn h _ => exact absurd (h.busy.symm.trans hidle) (by decide)
    | ok z h => exact .inl ⟨z, h⟩
    | error e h => exact .inr ⟨e, h⟩
  · exact absurd ((hbusy hb).symm.trans hidle) (by decide)

end Agents

/-! ### Reads of the registers -/

section Reads

variable {W : Nat} {b c : Block W} {s t : State} {i j : BitVec 3}

theorem memRead_writeSlot_same (hi : i = 2 ∨ i = 3 ∨ i = 4 ∨ i = 5) (v : BitVec W) :
    (b.writeSlot (Slot.ofIndex i) v).memRead i = v := by
  rcases hi with rfl | rfl | rfl | rfl <;> rfl

/-- A write to a slot is not seen through another one. -/
theorem memRead_writeSlot_of_ne (hji : j ≠ i) (v : BitVec W) :
    (b.writeSlot (Slot.ofIndex i) v).memRead j = b.memRead j := by
  have hslot : Slot.ofIndex j ≠ Slot.ofIndex i := fun e => hji (Slot.ofIndex_injective e)
  rw [← Slot.index_ofIndex j]
  generalize Slot.ofIndex j = q at *
  generalize Slot.ofIndex i = r at *
  cases r <;> cases q <;> first | rfl | exact absurd rfl hslot

theorem Block.SameOperands.memRead (h : b.SameOperands c) (hi : i = 2 ∨ i = 3 ∨ i = 4 ∨ i = 5) :
    c.memRead i = b.memRead i := by
  rcases hi with rfl | rfl | rfl | rfl
  · exact h.opa
  · exact h.opb
  · exact h.mod
  · exact h.bitw

theorem memRead_start (op : BitVec 2) (hi : i = 2 ∨ i = 3 ∨ i = 4 ∨ i = 5) :
    (b.start op).memRead i = b.memRead i := by
  unfold Block.start
  split <;> rcases hi with rfl | rfl | rfl | rfl <;> rfl

@[simp] theorem memRead_reset (i : BitVec 3) : (Block.reset Config.W).memRead i = 0 := by
  revert i
  decide

theorem HostCase.memRead {op : HostOp Config.W} {b t : Block Config.W} (h : HostCase op b t)
    (hi : i = 2 ∨ i = 3 ∨ i = 4 ∨ i = 5) (hop : ∀ v, op ≠ .wr i v) : t.memRead i = b.memRead i := by
  cases h with
  | same ht _ _ => rw [ht]
  | slot j v ho _ ht =>
    have hij : i ≠ j := fun e => hop v (e ▸ ho)
    rw [ht, memRead_writeSlot_of_ne hij]
  | start v _ _ ht => rw [ht, memRead_start _ hi]

theorem step_memRead (hi : i = 2 ∨ i = 3 ∨ i = 4 ∨ i = 5) (hs : step s = .next t) (hr : ¬ s.ResetsNext)
    (hop : ∀ v, s.nextHostOp ≠ some (.wr i v)) : t.toBlock.memRead i = s.toBlock.memRead i := by
  cases step_cases hs with
  | reset h _ => exact absurd h hr
  | engine k sched _ ht =>
    subst ht
    exact (engineTicks_sameOperands k { s with sched := sched }).memRead hi
  | host op s' h hb ht =>
    rw [← hb]
    exact (hostStep_cases ht).memRead hi fun v e => hop v (e ▸ h)
  | none _ _ _ ht => rw [ht]

theorem memWrite_memRead (hi : i = 2 ∨ i = 3 ∨ i = 4 ∨ i = 5) (v : Word) (s : State) :
    ∃ t, memWrite i v s = .next t ∧ t.toBlock.memRead i = v ∧
      ∀ j, j ≠ i → t.toBlock.memRead j = s.toBlock.memRead j := by
  have hctrl : Slot.ofIndex i ≠ .ctrl := by rcases hi with rfl | rfl | rfl | rfl <;> decide
  have hw := memWrite_slot hctrl v s
  rw [Slot.index_ofIndex] at hw
  exact ⟨_, hw, memRead_writeSlot_same hi v, fun j hj => memRead_writeSlot_of_ne hj v⟩

/-- A run keeps an operand register from its second state on, while no step writes it and none is a reset. -/
theorem run_memRead (hi : i = 2 ∨ i = 3 ∨ i = 4 ∨ i = 5) {run : Nat → State} {n : Nat}
    (hrun : ∀ k, k ≤ n → step (run k) = .next (run (k + 1)))
    (hkeep : ∀ k, 1 ≤ k → k ≤ n → ¬ (run k).ResetsNext ∧ ∀ v, (run k).nextHostOp ≠ some (.wr i v)) :
    (run (n + 1)).toBlock.memRead i = (run 1).toBlock.memRead i := by
  induction n with
  | zero => rfl
  | succ n ih =>
    obtain ⟨hr, hop⟩ := hkeep (n + 1) (Nat.le_add_left 1 n) le_rfl
    rw [step_memRead hi (hrun (n + 1) le_rfl) hr hop]
    exact ih (fun k hk => hrun k (Nat.le_succ_of_le hk)) fun k h1 hk => hkeep k h1 (Nat.le_succ_of_le hk)

theorem Block.toNat_statusWord (hW : 8 ≤ W) (b : Block W) :
    b.statusWord.toNat = b.busy.toNat + 2 * b.done.toNat + 4 * b.err.toNat + 32 * b.ovr.toNat := by
  have fields : ∀ (o : Bool) (e : BitVec 3) (d u : Bool),
      (BitVec.ofBool o ++ e ++ BitVec.ofBool d ++ BitVec.ofBool u).toNat =
        u.toNat + 2 * d.toNat + 4 * e.toNat + 32 * o.toNat := by decide
  have hpow : 2 ^ 6 ≤ 2 ^ W := Nat.pow_le_pow_right (by omega) (by omega)
  have hlt := (BitVec.ofBool b.ovr ++ b.err ++ BitVec.ofBool b.done ++ BitVec.ofBool b.busy).isLt
  unfold Block.statusWord
  rw [toNat_setWidth_of_lt (lt_of_lt_of_le hlt hpow), fields]

end Reads

/-! ### The table of STATUS values (10_state.md R32) -/

section StatusTable

variable {W : Nat} {b : Block W}

theorem Block.StatusInv.busy_of_done (h : b.StatusInv) (hd : b.done = true) : b.busy = false := by
  by_contra hb
  exact absurd ((h.busy_clear (by simpa using hb)).1.symm.trans hd) (by decide)

theorem Block.StatusInv.toNat_status_fresh (h : b.StatusInv) (hW : 8 ≤ W) (hb : b.busy = false)
    (hd : b.done = false) : (b.memRead 1).toNat = 0 := by
  obtain ⟨herr, hovr, -⟩ := h.fresh hb hd
  refine (b.toNat_statusWord hW).trans ?_
  rw [hb, hd, herr, hovr]
  rfl

theorem Block.StatusInv.toNat_status_busy (h : b.StatusInv) (hW : 8 ≤ W) (hb : b.busy = true) :
    (b.memRead 1).toNat = if b.ovr then 33 else 1 := by
  obtain ⟨hd, herr⟩ := h.busy_clear hb
  refine (b.toNat_statusWord hW).trans ?_
  rw [hb, hd, herr]
  cases b.ovr <;> rfl

theorem Block.StatusInv.toNat_status_done (h : b.StatusInv) (hW : 8 ≤ W) (hd : b.done = true) :
    (b.memRead 1).toNat = if b.ovr then 34 + 4 * b.err.toNat else 2 + 4 * b.err.toNat := by
  refine (b.toNat_statusWord hW).trans ?_
  rw [h.busy_of_done hd, hd]
  cases b.ovr with
  | false => simp
  | true =>
    simp
    omega

end StatusTable

/-- What an engine's turn writes of STATUS, and that a completion in it is the command's (10_state.md R28 to R31). -/
theorem engineNext_status {s t : State} (hi : s.toBlock.Inv) (he : s.EngineNext) (hs : step s = .next t) :
    t.ovr = s.ovr ∧
      ((t.busy = s.busy ∧ t.done = s.done ∧ t.err = s.err) ∨
        (s.busy = true ∧ t.busy = false ∧ t.done = true ∧
          ∃ free, (s.latch.completion free).shownBy t.toBlock)) := by
  have hshown := (step_inv hi hs).shown
  obtain ⟨k, sched, rfl⟩ := step_engineNext he hs
  have hsame := engineTicks_sameOperands k { s with sched := sched }
  have completed (h : (engineTicks k { s with sched := sched }).done = true) :
      ∃ free, (s.latch.completion free).shownBy (engineTicks k { s with sched := sched }).toBlock := by
    have := hshown h
    rwa [hsame.latch] at this
  refine ⟨hsame.ovr, ?_⟩
  cases hb : s.busy with
  | false =>
    rw [engineTicks_idle (s := { s with sched := sched }) hb]
    exact .inl ⟨hb, rfl, rfl⟩
  | true =>
    cases engineTicks_cases (s := { s with sched := sched }) hb k with
    | goesOn h _ => exact .inl ⟨h.busy, h.done, h.err⟩
    | ok _ h => exact .inr ⟨rfl, h.busy, h.done, completed h.done⟩
    | error _ h => exact .inr ⟨rfl, h.busy, h.done, completed h.done⟩

/-! ### The obligations -/

/-- Settles O9: a step's cases show who writes an operand register, and an induction over the run carries it on. -/
theorem operandRegistersArePlainStorage : Obligations.OperandRegistersArePlainStorage := by
  intro i hi
  refine ⟨fun s v => memWrite_memRead hi v s, fun s t hs hr hop => step_memRead hi hs hr hop,
    fun n run hrun hkeep => ?_, fun s k => (engineTicks_sameOperands k s).memRead hi⟩
  have hfirst := hrun 0 (Nat.zero_le n)
  rw [run_memRead hi hrun hkeep]
  constructor
  · intro v hop
    obtain ⟨s', -, ht⟩ := step_nextHostOp hop hfirst
    obtain ⟨t, hw, hread, -⟩ := memWrite_memRead hi v s'
    cases hw.symm.trans ht
    exact hread
  · intro hr
    rw [step_resetsNext hr hfirst, memRead_reset]

/-- Settles O13: the table follows from the STATUS rules, which every reachable state keeps. -/
theorem statusReadValue : Obligations.StatusReadValue := by
  refine ⟨fun W hW b => b.toNat_statusWord hW, fun s hs => ?_, fun s hc => ?_, fun s t _ hs hr hsome => ?_⟩
  · have h := hs.inv.status
    have hW : 8 ≤ Config.W := by decide
    refine ⟨h.busy_clear, h.toNat_status_fresh hW, h.toNat_status_busy hW, fun hd he => ?_, fun hd he => ?_,
      fun hd he => ?_, fun hd he => ?_⟩ <;>
    · rw [h.toNat_status_done hW hd, he]
      rfl
  · obtain ⟨-, -, -, -, -, hbusy, hdone, -⟩ := hc
    exact ⟨hbusy, hdone⟩
  · rcases step_command hs hr with ⟨-, hcase⟩ | ⟨-, hbusy, hdone⟩
    · cases hcase with
      | goesOn h _ => exact .inl h.busy
      | ok _ h => exact .inr h.done
      | error _ h => exact .inr h.done
    · exact hsome.elim (fun hb => .inl (hbusy hb)) hdone

/-- Settles O14, by the agent whose step it is; the codes are those the invariant allows after it. -/
theorem statusFieldWriters : Obligations.StatusFieldWriters := by
  intro s t hi hs
  have hstatus := (step_inv hi hs).status
  refine ⟨fun hstart hb => ?_, fun hstart hb => ?_, fun hr => ?_, fun he => engineNext_status hi he hs,
    fun hstart hr he => ?_, fun hb => (hstatus.busy_clear hb).2, ?_⟩
  · obtain ⟨op, ht⟩ := step_startsNext hstart hs
    rw [ht, Block.start_idle op hb]
    exact ⟨rfl, rfl, rfl, rfl⟩
  · obtain ⟨op, ht⟩ := step_startsNext hstart hs
    exact ht.trans (Block.start_busy op hb)
  · rw [step_resetsNext hr hs]
    exact ⟨rfl, rfl, rfl, rfl⟩
  · cases step_cases hs with
    | reset h _ => exact absurd h hr
    | engine _ _ h _ => exact absurd h he
    | host op s' h hb ht =>
      rw [← hb]
      exact (hostStep_cases ht).status_of_not_start fun ⟨v, ho, hv⟩ => hstart ⟨v, ho ▸ h, hv⟩
    | none _ _ _ ht => exact ht ▸ ⟨rfl, rfl, rfl, rfl⟩
  · rcases hstatus.err_codes with h | h | h | h <;> rw [h] <;> decide

/-- Settles O33: a step that changes RESULT is a completion, and after it RESULT shows the latched command's. -/
theorem resultWrittenOnlyBySuccess : Obligations.ResultWrittenOnlyBySuccess := by
  refine ⟨fun s t hi hs => ⟨fun hr => ?_, fun hr hne => ?_, fun hr hb hidle herr => ?_, fun hr hb hidle herr => ?_⟩,
    fun s v => rfl⟩
  · rw [step_resetsNext hr hs]
    rfl
  · rcases step_command hs hr with ⟨hb, hcase⟩ | ⟨hresult, -, -⟩
    · cases hcase with
      | goesOn h _ => exact absurd h.result hne
      | ok _ h => exact ⟨hb, h.done, h.err⟩
      | error _ h => exact absurd h.result hne
    · exact absurd hresult hne
  · have hend : t.done = true ∧ t.latch = s.latch := by
      rcases step_completes hs hr hb hidle with ⟨_, h⟩ | ⟨_, h⟩ <;> exact ⟨h.done, h.latch⟩
    obtain ⟨free, hshown⟩ := (step_inv hi hs).shown hend.1
    rw [hend.2] at hshown
    exact ⟨free, Completion.eq_ok_of_shownBy hshown herr⟩
  · rcases step_completes hs hr hb hidle with ⟨_, h⟩ | ⟨_, h⟩
    · exact absurd h.err herr
    · exact h.result

/-- Settles O40: the reset event leaves the block of `Block.reset`. -/
theorem resetValues : Obligations.ResetValues := by
  refine ⟨Block.reset_clean Config.W, fun s sched h => ?_⟩
  have hs : step s = .next (resetEvent { s with sched := sched }) := by simp only [step, h]
  exact ⟨_, hs, Block.reset_clean Config.W, memRead_reset, rfl, rfl⟩

end Sys2Proof.Machine

/-! PROOFS. What a host access does, register by register, that the engine does not see the operand registers, and the
obligations of 20_memory.md. -/

namespace Sys2Proof.Machine

/-! ### A host access in the host's turn -/

section HostAccess

variable {s : State} {i : BitVec 3} {v : Word}

theorem step_host {op : HostOp Config.W} {prog : List (HostOp Config.W)} {sched : List Turn}
    (hp : s.prog = op :: prog) (hs : s.sched = .host :: sched) :
    step s = hostStep op { s with prog := prog, sched := sched } := by
  simp only [step, hs, hostTurn, hp]

theorem memWrite_ctrl_nostart (hv : v.getLsbD 0 = false) (s : State) : memWrite 0 v s = .next s := by
  rw [memWrite_ctrl, decode_nostart hv]
  rfl

theorem memWrite_ctrl_start (hv : v.getLsbD 0 = true) (s : State) :
    memWrite 0 v s = startCommand (v.extractLsb' 1 2) s := by
  rw [memWrite_ctrl, decode_start hv, exec_command (commandOfOp_ne_nocmd _), opOf_commandOfOp]

theorem memWrite_ctrl_busy (hv : v.getLsbD 0 = true) (hb : s.busy = true) :
    memWrite 0 v s = .next { s with ovr := true } :=
  (memWrite_ctrl_start hv s).trans (startCommand_busy _ hb)

theorem memWrite_ctrl_idle (hv : v.getLsbD 0 = true) (hb : s.busy = false) :
    memWrite 0 v s = .next (s.accepted (v.extractLsb' 1 2)) :=
  (memWrite_ctrl_start hv s).trans (startCommand_idle _ hb)

theorem memWrite_operand (hi : i = 2 ∨ i = 3 ∨ i = 4 ∨ i = 5) (v : Word) (s : State) :
    memWrite i v s = .next { s with toBlock := s.toBlock.writeSlot (Slot.ofIndex i) v } := by
  rcases hi with rfl | rfl | rfl | rfl <;> rfl

theorem memWrite_ignored (hi : i = 1 ∨ i = 6 ∨ i = 7) (v : Word) (s : State) : memWrite i v s = .next s := by
  rcases hi with rfl | rfl | rfl <;> rfl

theorem Block.writeSlot_idem {W : Nat} (r : Slot) (v : BitVec W) (b : Block W) :
    (b.writeSlot r v).writeSlot r v = b.writeSlot r v := by
  cases r <;> rfl

end HostAccess

/-! ### The engine does not see the operand registers -/

section Operands

variable {W : Nat}

/-- The block with the four operand registers overwritten. -/
def Block.withOperands (A B M m : BitVec W) (b : Block W) : Block W :=
  { b with opa := A, opb := B, mod := M, bitw := m }

/-- A write to a slot is an overwriting of the operand registers, in which the ones it leaves alone get the values they
have. -/
theorem Block.exists_withOperands (r : Slot) (v : BitVec W) (b : Block W) :
    ∃ A B M m, ∀ c, b.SameOperands c → c.writeSlot r v = c.withOperands A B M m := by
  cases r with
  | opa => exact ⟨v, b.opb, b.mod, b.bitw, fun c h => by rw [← h.opb, ← h.mod, ← h.bitw]; rfl⟩
  | opb => exact ⟨b.opa, v, b.mod, b.bitw, fun c h => by rw [← h.opa, ← h.mod, ← h.bitw]; rfl⟩
  | mod => exact ⟨b.opa, b.opb, v, b.bitw, fun c h => by rw [← h.opa, ← h.opb, ← h.bitw]; rfl⟩
  | bitw => exact ⟨b.opa, b.opb, b.mod, v, fun c h => by rw [← h.opa, ← h.opb, ← h.mod]; rfl⟩
  | ctrl | status | result | slot7 =>
    exact ⟨b.opa, b.opb, b.mod, b.bitw, fun c h => by rw [← h.opa, ← h.opb, ← h.mod, ← h.bitw]; rfl⟩

variable (A B M m : BitVec W)

/-- CHECK reads the latch only (60_exceptions.md R159). -/
theorem Block.check_withOperands (b : Block W) :
    (b.withOperands A B M m).check = b.check.withOperands A B M m := by
  have hlatch : (b.withOperands A B M m).latch = b.latch := rfl
  unfold Block.check checkMonmul checkModexp
  rw [hlatch]
  split
  · split
    · rfl
    · split <;> rfl
  · split <;> rfl
  all_goals rfl

/-- MM_FINAL hands its product to a phase that reads the latch and the working registers only. -/
theorem Block.mmFinal_withOperands (free : BitVec W) (b : Block W) :
    (b.withOperands A B M m).mmFinal free = (b.mmFinal free).withOperands A B M m := by
  have hcaller : (b.withOperands A B M m).caller = b.caller := rfl
  unfold Block.mmFinal Block.returnToCaller
  dsimp only
  rw [hcaller]
  cases b.caller <;> rfl

theorem Block.tick_withOperands (free : BitVec W) (b : Block W) :
    (b.withOperands A B M m).tick free = (b.tick free).withOperands A B M m := by
  have hphase : (b.withOperands A B M m).phase = b.phase := rfl
  unfold Block.tick
  rw [hphase]
  cases b.phase
  case check => exact check_withOperands A B M m b
  case mmFinal => exact mmFinal_withOperands A B M m free b
  all_goals rfl

end Operands

/-- The state with the block's four operand registers overwritten. -/
def State.withOperands (A B M m : Word) (s : State) : State :=
  { s with toBlock := s.toBlock.withOperands A B M m }

theorem engineTick_withOperands (A B M m : Word) (s : State) :
    engineTick (s.withOperands A B M m) = (engineTick s).withOperands A B M m := by
  have hbusy : (s.withOperands A B M m).busy = s.busy := rfl
  cases hb : s.busy with
  | true =>
    rw [engineTick_busy hb, engineTick_busy (hbusy.trans hb)]
    simp only [State.withOperands, Block.tick_withOperands]
  | false => rw [engineTick_idle hb, engineTick_idle (hbusy.trans hb)]

/-- A command in progress does not see what is written to the operand registers (20_memory.md R62). -/
theorem engineTicks_withOperands (A B M m : Word) (k : Nat) (s : State) :
    engineTicks k (s.withOperands A B M m) = (engineTicks k s).withOperands A B M m := by
  induction k generalizing s with
  | zero => rfl
  | succ k ih =>
    rw [engineTicks, engineTick_withOperands]
    exact ih (engineTick s)

theorem engineTicks_writeSlot (r : Slot) (v : Word) (k : Nat) (s : State) :
    (engineTicks k { s with toBlock := s.toBlock.writeSlot r v }).toBlock =
      (engineTicks k s).toBlock.writeSlot r v := by
  obtain ⟨A, B, M, m, hwrite⟩ := Block.exists_withOperands r v s.toBlock
  rw [hwrite _ (.refl _), hwrite _ (engineTicks_sameOperands k s)]
  exact congrArg State.toBlock (engineTicks_withOperands A B M m k s)

/-! ### The obligations of 20_memory.md -/

/-- Settles O8: the write to each index is the one next state of its rule, and the micro-steps commute with an operand
write. -/
theorem registerWriteEffects : Obligations.RegisterWriteEffects := by
  intro s i v prog sched hp hs
  set s' : State := { s with prog := prog, sched := sched }
  obtain ⟨t, ht⟩ := memWrite_next i v s'
  have ends {u : State} (h : memWrite i v s' = .next u) : t = u := Host.Outcome.next.inj (ht.symm.trans h)
  refine ⟨s', t, rfl, (step_host hp hs).trans ht, ?_, ?_, ?_, fun hi => ends (memWrite_ignored (.inl hi) v s'),
    fun hi => ends (by subst hi; rfl), fun hi => ends (by subst hi; rfl), fun hi => ends (by subst hi; rfl),
    fun hi => ends (by subst hi; rfl), fun hi => ends (memWrite_ignored (.inr (.inl hi)) v s'),
    fun hi => ends (memWrite_ignored (.inr (.inr hi)) v s'), fun hi k => ?_⟩
  · rintro rfl hv
    exact ends (memWrite_ctrl_nostart hv s')
  · rintro rfl hv hb
    exact ends (memWrite_ctrl_busy hv hb)
  · rintro rfl hv hb
    exact ends (memWrite_ctrl_idle hv hb)
  · rw [ends (memWrite_operand hi v s')]
    exact engineTicks_writeSlot (Slot.ofIndex i) v k s'

/-- Settles O10: the accept clears OVR, which the second START sets. -/
theorem readsAndWritesAreIdempotent : Obligations.ReadsAndWritesAreIdempotent := by
  refine ⟨fun s t i h => ?_, fun s i v hi => ?_, fun s v hv hb => ?_, fun s v => memWrite_ctrl_busy,
    fun s v hv => memWrite_ctrl_nostart hv s, fun s i v hi => memWrite_ignored hi v s⟩
  · obtain rfl : hostRead i s = t := Host.Outcome.next.inj h
    exact ⟨rfl, rfl⟩
  · refine ⟨_, memWrite_operand hi v s, ?_⟩
    rw [memWrite_operand hi]
    dsimp only
    rw [Block.writeSlot_idem]
  · have hne (t : State) (h : t.ovr = false) : { t with ovr := true } ≠ t := fun e => by
      rw [← e] at h
      cases h
    exact ⟨_, _, memWrite_ctrl_idle hv hb, rfl, memWrite_ctrl_busy hv rfl, rfl, hne _ rfl⟩

/-- Settles O31: the accept copies the registers, and no micro-step reads them. -/
theorem runningCommandIgnoresOperandWrites : Obligations.RunningCommandIgnoresOperandWrites := by
  refine ⟨fun s i hb hi => ?_, fun s a b M m k => engineTicks_withOperands a b M m k s⟩
  exact ⟨_, (exec_command hi s).trans (startCommand_idle _ hb), rfl, rfl, rfl, rfl⟩

/-- Settles O7: the value read is `Block.memRead` of the index. -/
theorem registerReadValues : Obligations.RegisterReadValues := by
  intro s i prog sched hp hs
  refine ⟨s.toBlock.memRead i, step_host hp hs, ?_, ?_, ?_, ?_, ?_, ?_, ?_, ?_⟩ <;>
  · rintro rfl
    rfl

end Sys2Proof.Machine

/-! PROOFS. The fields of a CTRL word as digits of its value, and the obligations of 30_encoding.md. -/

namespace Sys2Proof.Machine

section Decoding

variable {W : Nat} {v v' : BitVec W}

theorem ctrlStart_eq_decide (v : BitVec W) : ctrlStart v = decide (v.toNat % 2 = 1) := by
  rw [ctrlStart, BitVec.getLsbD, Nat.testBit_zero]

theorem ctrlStart_congr (h : v'.toNat % 8 = v.toNat % 8) : ctrlStart v' = ctrlStart v := by
  have hbit : v'.toNat % 2 = v.toNat % 2 := by omega
  rw [ctrlStart_eq_decide, ctrlStart_eq_decide, hbit]

theorem ctrlOp_congr (h : v'.toNat % 8 = v.toNat % 8) : ctrlOp v' = ctrlOp v := by
  apply BitVec.eq_of_toNat_eq
  rw [Laws.TableRow.ctrlOp_toNat, Laws.TableRow.ctrlOp_toNat]
  omega

/-- Decoding reads START and OP, which are bits [2:0], and nothing else (30_encoding.md R73). -/
theorem decode_congr (h : v'.toNat % 8 = v.toNat % 8) : decode v' = decode v := by
  rw [decode, decode, ctrlStart_congr h, ctrlOp_congr h]

theorem decode_of_op {op : BitVec 2} (hv : v.getLsbD 0 = true) (hop : v.extractLsb' 1 2 = op) :
    decode v = commandOfOp op := by
  rw [decode_start hv, hop]

end Decoding

/-! ### The obligations of 30_encoding.md -/

/-- Settles O2: START chooses between no command and the row of OP, and both are fixed by the low three bits. -/
theorem decodeIsTotalOnTheLowThreeBits : Obligations.DecodeIsTotalOnTheLowThreeBits :=
  fun _ _ _ => ⟨decode_nostart, decode_of_op, decode_of_op, decode_of_op, decode_of_op, fun _ => decode_congr⟩

end Sys2Proof.Machine

/-! PROOFS. What MonMul computes, that its accumulator and its registers stay in bounds, that a MONMUL command ends with
it, and the obligations of 40_montgomery_multiply.md. -/

namespace Sys2Proof.Machine

/-! ### The Montgomery product -/

section MontgomeryProduct

variable {X Y M m T z r : Nat}

theorem monSum_eq (Y M T : Nat) (Xi : Bool) :
    monSum Y M T Xi = T + Xi.toNat * Y + (T.testBit 0 ^^ (Xi && Y.testBit 0)).toNat * M := by
  unfold monSum
  generalize (T.testBit 0 ^^ (Xi && Y.testBit 0)) = eta
  cases Xi <;> cases eta <;> simp

theorem monSum_modEq (Y M T : Nat) (Xi : Bool) : monSum Y M T Xi ≡ T + Xi.toNat * Y [MOD M] := by
  simp [monSum_eq, Nat.ModEq]

/-- eta makes up for the parity of T + Xi·Y (40_montgomery_multiply.md R92). -/
theorem monSum_mod_two (hM : M % 2 = 1) (Y T : Nat) (Xi : Bool) : monSum Y M T Xi % 2 = 0 := by
  have hbit (v : Nat) : (v.testBit 0).toNat = v % 2 := by rw [Nat.toNat_testBit, pow_zero, Nat.div_one]
  have hXY : Xi.toNat * Y % 2 = (Xi && Y.testBit 0).toNat := by
    cases Xi <;> simp [hbit, -Nat.testBit_zero]
  have parity : ∀ a b : Bool, (a.toNat + b.toNat + (a ^^ b).toNat) % 2 = 0 := by decide
  calc monSum Y M T Xi % 2
      = (T % 2 + Xi.toNat * Y % 2 + (T.testBit 0 ^^ (Xi && Y.testBit 0)).toNat) % 2 := by
        rw [monSum_eq]
        simp [Nat.add_mod, Nat.mul_mod, hM]
    _ = 0 := by rw [← hbit T, hXY, parity]

/-- The shift drops no bit (40_montgomery_multiply.md R92). -/
theorem two_mul_monSum_shiftRight (hM : M % 2 = 1) (Y T : Nat) (Xi : Bool) :
    2 * (monSum Y M T Xi >>> 1) = monSum Y M T Xi := by
  rw [Nat.shiftRight_eq_div_pow, pow_one]
  exact Nat.mul_div_cancel' (Nat.dvd_of_mod_eq_zero (monSum_mod_two hM Y T Xi))

/-- An iteration halves T + Xi·Y modulo M (40_montgomery_multiply.md R94). -/
theorem two_mul_monIter_modEq (hM : M % 2 = 1) (Y T : Nat) (Xi : Bool) :
    2 * monIter Y M T Xi ≡ T + Xi.toNat * Y [MOD M] := by
  have h := (subOnce_modEq M (monSum Y M T Xi >>> 1)).mul_left 2
  rw [two_mul_monSum_shiftRight hM] at h
  exact h.trans (monSum_modEq Y M T Xi)

/-- k iterations have taken in the low k bits of X (40_montgomery_multiply.md R94). -/
theorem two_pow_mul_monLoop_modEq (hM : M % 2 = 1) (X Y k : Nat) :
    2 ^ k * monLoop X Y M k ≡ X % 2 ^ k * Y [MOD M] := by
  induction k with
  | zero => simp [monLoop, Nat.mod_one, Nat.ModEq]
  | succ k ih =>
    calc 2 ^ (k + 1) * monLoop X Y M (k + 1)
        = 2 ^ k * (2 * monIter Y M (monLoop X Y M k) (X.testBit k)) := by rw [pow_succ, mul_assoc]; rfl
      _ ≡ 2 ^ k * (monLoop X Y M k + (X.testBit k).toNat * Y) [MOD M] := (two_mul_monIter_modEq hM ..).mul_left _
      _ = 2 ^ k * monLoop X Y M k + 2 ^ k * (X.testBit k).toNat * Y := by ring
      _ ≡ X % 2 ^ k * Y + 2 ^ k * (X.testBit k).toNat * Y [MOD M] := ih.add_right _
      _ = X % 2 ^ (k + 1) * Y := by rw [Nat.mod_pow_succ, ← Nat.toNat_testBit, add_mul]

theorem two_pow_mul_monMul_modEq (hM : M % 2 = 1) (hX : X < 2 ^ m) (Y : Nat) :
    2 ^ m * monMul X Y M m ≡ X * Y [MOD M] := by
  have h := two_pow_mul_monLoop_modEq hM X Y m
  rw [Nat.mod_eq_of_lt hX] at h
  exact ((subOnce_modEq M _).mul_left _).trans h

theorem coprime_two_pow (hM : M % 2 = 1) (m : Nat) : Nat.Coprime M (2 ^ m) :=
  (Nat.coprime_two_right.2 (Nat.odd_iff.2 hM)).pow_right m

/-! ### The bounds of the contract region -/

/-- 2^(m-1) is even and M is not, so 2^(m-1) < M (40_montgomery_multiply.md R95). -/
theorem two_pow_bitlen_add_two_le (hM : M % 2 = 1) (h3 : 3 ≤ M) : 2 ^ bitlen M + 2 ≤ 2 * M := by
  have hle := two_pow_bitlen_le (v := M) (by omega)
  obtain ⟨k, hk⟩ : ∃ k, bitlen M = k + 2 := by
    have : ¬ bitlen M ≤ 1 := fun h => by
      have := (lt_two_pow_bitlen M).trans_le (Nat.pow_le_pow_right two_pos h)
      omega
    exact ⟨bitlen M - 2, by omega⟩
  rw [hk, show k + 2 - 1 = k + 1 from rfl, pow_succ] at hle
  rw [hk, pow_succ, pow_succ]
  omega

theorem ContractRegion.add_two_le (h : ContractRegion X Y M m) : 2 ^ m + 2 ≤ 2 * M := by
  obtain ⟨hM, h3, rfl, -, -⟩ := h
  exact two_pow_bitlen_add_two_le hM h3

/-- The accumulator lies below M before and after every iteration (40_montgomery_multiply.md R95). -/
theorem ContractRegion.monLoop_lt (h : ContractRegion X Y M m) (k : Nat) : monLoop X Y M k < M := by
  have hm := h.add_two_le
  obtain ⟨-, h3, -, -, hY⟩ := h
  induction k with
  | zero => exact Nat.zero_lt_of_lt h3
  | succ k ih =>
    have hS := monSum_le Y M (monLoop X Y M k) (X.testBit k)
    refine subOnce_lt ?_
    rw [Nat.shiftRight_eq_div_pow]
    omega

theorem ContractRegion.monSum_le (h : ContractRegion X Y M m) (k : Nat) :
    monSum Y M (monLoop X Y M k) (X.testBit k) ≤ 4 * M - 4 := by
  have hT := ContractRegion.monLoop_lt h k
  have hm := h.add_two_le
  have hS := Machine.monSum_le Y M (monLoop X Y M k) (X.testBit k)
  obtain ⟨-, -, -, -, hY⟩ := h
  omega

theorem subOnce_of_lt (h : T < M) : subOnce M T = T := if_neg h.not_ge

/-- The value of MonMul without the inverse: 2^m is cancelled modulo the odd M (40_montgomery_multiply.md R94). -/
theorem ContractRegion.eq_monMul_iff (h : ContractRegion X Y M m) :
    z = monMul X Y M m ↔ z < M ∧ 2 ^ m * z ≡ X * Y [MOD M] := by
  have hlt : monMul X Y M m < M := (subOnce_of_lt (h.monLoop_lt m)).trans_lt (h.monLoop_lt m)
  obtain ⟨hM, -, -, hX, -⟩ := h
  have hmod := two_pow_mul_monMul_modEq hM hX Y
  constructor
  · rintro rfl
    exact ⟨hlt, hmod⟩
  · rintro ⟨hz, hmodz⟩
    exact (Nat.ModEq.cancel_left_of_coprime (coprime_two_pow hM m) (hmodz.trans hmod.symm)).eq_of_lt_of_lt hz hlt

/-- Multiplying by 2^m is dividing by its inverse. -/
theorem two_pow_mul_modEq_iff (hM : M % 2 = 1) (hr : 2 ^ m * r ≡ 1 [MOD M]) (v : Nat) :
    2 ^ m * z ≡ v [MOD M] ↔ z ≡ v * r [MOD M] := by
  have hv : 2 ^ m * (v * r) ≡ v [MOD M] := by
    simpa [mul_left_comm] using hr.mul_left v
  constructor
  · intro h
    exact .cancel_left_of_coprime (coprime_two_pow hM m) (h.trans hv.symm)
  · intro h
    exact (h.mul_left _).trans hv

/-! ### The radix -/

theorem radixResidue_modEq (M : Nat) : radixResidue M ≡ 2 ^ bitlen M [MOD M] := Nat.mod_modEq _ M

theorem radixSquare_modEq (M : Nat) : radixSquare M ≡ 2 ^ bitlen M * 2 ^ bitlen M [MOD M] :=
  (Nat.mod_modEq _ M).trans ((radixResidue_modEq M).mul (radixResidue_modEq M))

/-- Operands below a valid modulus are inside the contract region. -/
theorem contractRegion_of_lt (hM : ValidModulus M) (hX : X < M) (hY : Y < M) : ContractRegion X Y M (bitlen M) := by
  have hlt := lt_two_pow_bitlen M
  obtain ⟨hodd, h1⟩ := hM
  exact ⟨hodd, by omega, rfl, hX.trans hlt, hY.trans hlt⟩

/-- A number w, reduced modulo M, is the Montgomery product as soon as 2^m·w ≡ X·Y. -/
theorem monMul_eq_mod {w : Nat} (hM : ValidModulus M) (hX : X < M) (hY : Y < M)
    (h : 2 ^ bitlen M * w ≡ X * Y [MOD M]) : monMul X Y M (bitlen M) = w % M :=
  ((contractRegion_of_lt hM hX hY).eq_monMul_iff.2
    ⟨Nat.mod_lt w (Nat.zero_lt_of_lt hX), ((Nat.mod_modEq w M).mul_left _).trans h⟩).symm

/-- Into the Montgomery domain (40_montgomery_multiply.md R102). -/
theorem monMul_radixSquare (hM : ValidModulus M) (hX : X < M) :
    monMul X (radixSquare M) M (bitlen M) = X * radixResidue M % M := by
  refine monMul_eq_mod hM hX (radixSquare_lt (Nat.zero_lt_of_lt hX)) ?_
  calc 2 ^ bitlen M * (X * radixResidue M)
      ≡ 2 ^ bitlen M * (X * 2 ^ bitlen M) [MOD M] := ((radixResidue_modEq M).mul_left X).mul_left _
    _ = X * (2 ^ bitlen M * 2 ^ bitlen M) := mul_left_comm ..
    _ ≡ X * radixSquare M [MOD M] := (radixSquare_modEq M).symm.mul_left X

/-- Out of the Montgomery domain (40_montgomery_multiply.md R102). -/
theorem monMul_one (hM : ValidModulus M) (hX : X < M) (hr : radixResidue M * r ≡ 1 [MOD M]) :
    monMul X 1 M (bitlen M) = X * r % M := by
  refine monMul_eq_mod hM hX hM.2 ?_
  rw [mul_one]
  exact (two_pow_mul_modEq_iff hM.1 (((radixResidue_modEq M).symm.mul_right r).trans hr) X).2 rfl

/-- The product's missing 2^m comes back with RR (40_montgomery_multiply.md R102). -/
theorem monMul_monMul_radixSquare (hM : ValidModulus M) (hX : X < M) (hY : Y < M) :
    monMul (monMul X Y M (bitlen M)) (radixSquare M) M (bitlen M) = X * Y % M := by
  obtain ⟨hlt, hmod⟩ := (contractRegion_of_lt hM hX hY).eq_monMul_iff.1 rfl
  rw [monMul_radixSquare hM hlt]
  calc monMul X Y M (bitlen M) * radixResidue M
      ≡ monMul X Y M (bitlen M) * 2 ^ bitlen M [MOD M] := (radixResidue_modEq M).mul_left _
    _ = 2 ^ bitlen M * monMul X Y M (bitlen M) := mul_comm ..
    _ ≡ X * Y [MOD M] := hmod

end MontgomeryProduct

/-! ### The registers of the multiplier -/

section Registers

variable {W k : Nat} {u : Multiplier W}

theorem Multiplier.iterate_i_toNat (h : u.i.toNat < u.m.toNat) : u.iterate.i.toNat = u.i.toNat + 1 := by
  have hone : (1 : BitVec (counterWidth W)).toNat = 1 := BitVec.toNat_one (Nat.succ_pos _)
  have hm := u.m.isLt
  rw [iterate_i, BitVec.toNat_add, hone, Nat.mod_eq_of_lt (by omega)]

/-- The multiplier k iterations after its start: the operands as they were, i = k and T the pseudocode's
(40_montgomery_multiply.md R96). -/
theorem Multiplier.iterate_iterate (hM : 0 < u.M.toNat) (hT : u.T = 0) (hi : u.i = 0) (hk : k ≤ u.m.toNat) :
    (iterate^[k] u).X = u.X ∧ (iterate^[k] u).Y = u.Y ∧ (iterate^[k] u).M = u.M ∧ (iterate^[k] u).m = u.m ∧
      (iterate^[k] u).i.toNat = k ∧ (iterate^[k] u).T.toNat = monLoop u.X.toNat u.Y.toNat u.M.toNat k := by
  induction k with
  | zero => simp [hT, hi, monLoop]
  | succ k ih =>
    obtain ⟨hX, hY, hM', hm, hi', hT'⟩ := ih (Nat.le_of_succ_le hk)
    have hbound : (iterate^[k] u).T.toNat < (iterate^[k] u).Y.toNat + (iterate^[k] u).M.toNat := by
      rw [hT', hY, hM']
      exact monLoop_lt hM k
    rw [Function.iterate_succ_apply']
    refine ⟨(iterate_X _).trans hX, (iterate_Y _).trans hY, (iterate_M _).trans hM', (iterate_m _).trans hm, ?_, ?_⟩
    · rw [iterate_i_toNat (by rwa [hi', hm]), hi']
    · rw [iterate_T _ hbound, hX, hY, hM', hi', hT']
      rfl

/-- The word returned after m iterations is the Montgomery product, cut to W bits without loss
(40_montgomery_multiply.md R96). -/
theorem Multiplier.iterate_iterate_subM (hM : 0 < u.M.toNat) (hT : u.T = 0) (hi : u.i = 0) :
    ((iterate^[u.m.toNat] u).subM.T.setWidth W).toNat =
      monMul u.X.toNat u.Y.toNat u.M.toNat u.m.toNat := by
  obtain ⟨-, -, hM', -, -, hT'⟩ := iterate_iterate hM hT hi le_rfl
  have h : (iterate^[u.m.toNat] u).subM.T.toNat = monMul u.X.toNat u.Y.toNat u.M.toNat u.m.toNat := by
    rw [subM_T, hM', hT']
    rfl
  rw [toNat_setWidth_of_lt (h.trans_lt (monMul_lt_two_pow hM u.Y.isLt u.M.isLt)), h]

/-- At most one of M and Y is taken off by the final subtraction (40_montgomery_multiply.md R96). -/
theorem monMul_lt_max {M : Nat} (hM : 0 < M) (X Y m : Nat) : monMul X Y M m < max M Y := by
  have hT := monLoop_lt (X := X) (Y := Y) hM m
  unfold monMul subOnce
  split
  · exact lt_max_of_lt_right (by omega)
  · exact lt_max_of_lt_left (by omega)

end Registers

/-! ### A MONMUL command runs to its end -/

section Commands

variable {s : State}

theorem engineTicks_frame (k : Nat) (s : State) : (engineTicks k s).prog = s.prog ∧
    (engineTicks k s).sched = s.sched ∧ (engineTicks k s).returned = s.returned := by
  induction k with
  | zero => exact ⟨rfl, rfl, rfl⟩
  | succ k ih =>
    obtain ⟨hp, hs, hr⟩ := engineTick_frame (engineTicks k s)
    rw [engineTicks_succ]
    exact ⟨hp.trans ih.1, hs.trans ih.2.1, hr.trans ih.2.2⟩

theorem engineTicks_sameButCompletion (k : Nat) (s : State) : SameButCompletion s (engineTicks k s) :=
  have ⟨hp, hs, hr⟩ := engineTicks_frame k s
  ⟨engineTicks_sameOperands k s, hp, hs, hr⟩

theorem engineTicks_goesOn {k : Nat} (hb : (engineTicks k s).busy = true) : GoesOn s (engineTicks k s) := by
  have hs : s.busy = true := by
    by_contra h
    rw [engineTicks_idle (by simpa using h)] at hb
    exact h hb
  cases engineTicks_cases hs k with
  | goesOn h _ => exact { engineTicks_sameButCompletion k s, h with }
  | ok _ h => exact absurd (h.busy.symm.trans hb) (by decide)
  | error _ h => exact absurd (h.busy.symm.trans hb) (by decide)

/-- A command that ends has a last micro-step before its completion. -/
theorem exists_last_goesOn {n : Nat} (hb : s.busy = true) (hn : (engineTicks n s).busy = false) :
    ∃ k, (∀ j, j ≤ k → GoesOn s (engineTicks j s)) ∧ (engineTicks (k + 1) s).busy = false := by
  have hex : ∃ n, (engineTicks n s).busy = false := ⟨n, hn⟩
  obtain ⟨k, hk⟩ : ∃ k, Nat.find hex = k + 1 := by
    refine Nat.exists_eq_succ_of_ne_zero fun h => ?_
    have := Nat.find_spec hex
    rw [h] at this
    exact absurd (hb.symm.trans this) (by decide)
  refine ⟨k, fun j hj => engineTicks_goesOn ?_, hk ▸ Nat.find_spec hex⟩
  simpa using Nat.find_min hex (m := j) (by omega)

/-- A command whose pseudocode succeeds with z ends with ERR = 0 and RESULT z, if it ends. -/
theorem completesWith_of_completion_ok {n : Nat} {z : Word} (hi : s.toBlock.Inv) (hb : s.busy = true)
    (hz : ∀ free, s.latch.completion free = .ok z) (hn : (engineTicks n s).busy = false) : CompletesWith s 0 z := by
  obtain ⟨k, hgo, hend⟩ := exists_last_goesOn hb hn
  refine ⟨k, hgo, ?_⟩
  have hshown : (engineTicks (k + 1) s).done = true → (Completion.ok z).shownBy (engineTicks (k + 1) s).toBlock := by
    intro hd
    obtain ⟨free, h⟩ := (engineTicks_inv (k + 1) hi).shown hd
    rwa [(engineTicks_sameOperands (k + 1) s).latch, hz] at h
  cases engineTicks_cases hb (k + 1) with
  | goesOn h _ => exact absurd (h.busy.symm.trans hend) (by decide)
  | ok z' h =>
    obtain rfl : z' = z := h.result.symm.trans (hshown h.done).2
    exact { engineTicks_sameButCompletion (k + 1) s, h with }
  | error e h => exact absurd (h.err.symm.trans (hshown h.done).1) e.code_ne_zero

theorem Block.accept_inv {W : Nat} (op : BitVec 2) (b : Block W) : (b.accept op).Inv where
  status := ⟨fun _ => ⟨rfl, rfl⟩, nofun, ⟨nofun, nofun⟩, .inl rfl⟩
  engine := trivial
  shown := nofun

theorem engineTick_mmIter (hb : s.busy = true) (hp : s.phase = .mmIter) :
    (engineTick s).toBlock = s.toBlock.mmIter := by
  rw [engineTick_busy hb]
  simp only [Block.tick, hp]

/-- Every iteration brings i closer to m, so MM_ITER leads to MM_FINAL (40_montgomery_multiply.md R103). -/
theorem exists_engineTicks_mmFinal (hi : s.toBlock.Inv) (hb : s.busy = true) (hp : s.phase = .mmIter) :
    ∃ k, (engineTicks k s).busy = true ∧ (engineTicks k s).phase = .mmFinal ∧
      (engineTicks k s).caller = s.caller := by
  obtain ⟨d, hd⟩ : ∃ d, s.mul.m.toNat - s.mul.i.toNat = d := ⟨_, rfl⟩
  have hlt := hi.engine
  simp only [Block.EngineInv, hp] at hlt
  obtain ⟨-, -, hlt, -⟩ := hlt
  induction d generalizing s with
  | zero => omega
  | succ d ih =>
    have ht := engineTick_mmIter hb hp
    by_cases hlast : s.mul.iterate.i = s.mul.iterate.m
    · refine ⟨1, ?_⟩
      rw [show engineTicks 1 s = engineTick s from rfl, ht]
      exact ⟨hb, if_pos hlast, rfl⟩
    · have hi' := engineTick_inv hi
      have hp' : (engineTick s).phase = .mmIter := by rw [ht]; exact if_neg hlast
      have hlt' := hi'.engine
      simp only [Block.EngineInv, hp'] at hlt'
      obtain ⟨-, -, hlt', -⟩ := hlt'
      obtain ⟨k, hk⟩ := ih hi' (by rw [ht]; exact hb) hp'
        (by rw [ht, Block.mmIter_mul, Multiplier.iterate_m, Multiplier.iterate_i_toNat hlt]; omega) hlt'
      rw [show (engineTick s).caller = s.caller by rw [ht]; rfl] at hk
      exact ⟨k + 1, hk⟩

/-- MM_FINAL of a MONMUL is its completion. -/
theorem engineTick_mmFinal_monmul (hb : s.busy = true) (hp : s.phase = .mmFinal) (hc : s.caller = .monmul) :
    (engineTick s).busy = false := by
  rw [engineTick_busy hb]
  simp [Block.tick, hp, Block.mmFinal, Block.returnToCaller, hc, completeMonmul]

/-- A MONMUL that passes its checks ends (40_montgomery_multiply.md R103). -/
theorem exists_engineTicks_monmul_idle (hi : s.toBlock.Inv) (hb : s.busy = true) (hp : s.phase = .check)
    (hc : s.latch.command = .monmul) (hv : s.latch.validModulus = true) (hm : s.latch.validBitwidth = true) :
    ∃ n, (engineTicks n s).busy = false := by
  have ht : (engineTick s).toBlock = s.toBlock.startMonMul .monmul s.latch.A s.latch.B s.latch.M
      (s.latch.m.setWidth (counterWidth Config.W)) := by
    rw [engineTick_busy hb]
    simp [Block.tick, hp, Block.check, hc, checkMonmul, hv, hm]
  obtain ⟨k, hbk, hpk, hck⟩ :=
    exists_engineTicks_mmFinal (engineTick_inv hi) (by rw [ht]; exact hb) (by rw [ht]; rfl)
  refine ⟨k + 2, ?_⟩
  rw [engineTicks_succ]
  exact engineTick_mmFinal_monmul hbk hpk (hck.trans (by rw [ht]; rfl))

/-- MONMUL inside the contract region ends with the Montgomery product of the operand registers
(40_montgomery_multiply.md R99). -/
theorem monmul_completesWith_monMul (h : ContractRegion s.opa.toNat s.opb.toNat s.mod.toNat s.bitw.toNat) :
    CompletesWith (s.accepted 0b01) 0
      (BitVec.ofNat Config.W (monMul s.opa.toNat s.opb.toNat s.mod.toNat s.bitw.toNat)) := by
  obtain ⟨hM, h3, hm, hX, hY⟩ := h
  have hi : (s.accepted 0b01).toBlock.Inv := Block.accept_inv 0b01 s.toBlock
  have hv : (s.accepted 0b01).latch.validModulus = true := (Latch.validModulus_iff _).2 ⟨hM, Nat.lt_of_succ_lt h3⟩
  have hw : (s.accepted 0b01).latch.validBitwidth = true := decide_eq_true hm
  have hr : (s.accepted 0b01).latch.operandsInRange = true :=
    Bool.and_eq_true_iff.2 ⟨decide_eq_true hX, decide_eq_true hY⟩
  have hc : (s.accepted 0b01).latch.command = .monmul := commandOfOp_opOf (i := .monmul) (by decide)
  obtain ⟨n, hn⟩ := exists_engineTicks_monmul_idle hi rfl rfl hc hv hw
  refine completesWith_of_completion_ok hi rfl (fun free => ?_) hn
  rw [Latch.completion_monmul_ok free hc hv hw, hr]
  rfl

end Commands

/-! ### The obligations of 40_montgomery_multiply.md -/

/-- Settles O42: the loop halves X·Y m times modulo M, and 2^m is invertible modulo an odd M. -/
theorem monMulMeetsTheContract : Obligations.MonMulMeetsTheContract := by
  intro X Y M m h
  have hM : M % 2 = 1 := h.1
  have h3 : 3 ≤ M := h.2.1
  refine ⟨?_, fun r hr z => ?_⟩
  · obtain ⟨r, -, hr⟩ := Nat.exists_mul_mod_eq_one_of_coprime (coprime_two_pow hM m).symm (by omega)
    exact ⟨r, by rw [Nat.ModEq, hr, Nat.mod_eq_of_lt (by omega)]⟩
  · rw [h.eq_monMul_iff, two_pow_mul_modEq_iff hM hr]

/-- Settles O43: eta adds the odd M exactly when the rest of the sum is odd. -/
theorem preShiftSumIsEven : Obligations.PreShiftSumIsEven :=
  fun _ Y _ _ hM => ⟨monSum_mod_two hM Y _ _, two_mul_monSum_shiftRight hM Y _ _⟩

/-- Settles O44: 2^m is at most 2M − 2. -/
theorem accumulatorBounds : Obligations.AccumulatorBounds := by
  intro X Y M m h
  have hMm : M < 2 ^ m := by
    rw [h.2.2.1]
    exact lt_two_pow_bitlen M
  refine ⟨fun k _ => ?_, subOnce_of_lt (h.monLoop_lt m)⟩
  have hS := h.monSum_le k
  have hhalf : monSum Y M (monLoop X Y M k) (X.testBit k) >>> 1 < 2 * M := by
    rw [Nat.shiftRight_eq_div_pow]
    omega
  exact ⟨h.monLoop_lt k, hS, hhalf, by rw [pow_succ]; omega, h.monLoop_lt (k + 1)⟩

/-- Settles O45: T stays below Y + M, so every register operation is exact. -/
theorem datapathNeverTruncates : Obligations.DatapathNeverTruncates := by
  intro W _ X Y M m _ h3 _ _
  have hM : 0 < M.toNat := Nat.zero_lt_of_lt h3
  have hYlt := Y.isLt
  have hMlt := M.isLt
  refine ⟨fun k _ => monLoop_lt hM k, fun k _ => ?_, ?_, monMul_lt_max hM _ _ _, ?_, fun k hk => ?_, ?_⟩
  · have hT := monLoop_lt (X := X.toNat) (Y := Y.toNat) hM k
    have hS := monSum_le Y.toNat M.toNat (monLoop X.toNat Y.toNat M.toNat k) (X.toNat.testBit k)
    omega
  · rw [pow_add]
    omega
  · omega
  · obtain ⟨-, -, -, -, -, hT⟩ :=
      Multiplier.iterate_iterate (u := { T := 0, i := 0, X := X, Y := Y, M := M, m := m }) hM rfl rfl hk
    exact hT
  · exact Multiplier.iterate_iterate_subM (u := { T := 0, i := 0, X := X, Y := Y, M := M, m := m }) hM rfl rfl

/-- Settles O49: the three equations by cancelling 2^m; the commands of the example by MONMUL's completion and the
values of MonMul. -/
theorem domainConversions : Obligations.DomainConversions := by
  refine ⟨fun M a b hM ha hb => ⟨monMul_radixSquare hM ha, fun r hr => monMul_one hM ha hr,
    monMul_monMul_radixSquare hM ha hb⟩, by decide, by decide,
    fun s hbusy hM hm => ⟨fun hX hY => ?_, fun hX hY => ?_⟩⟩
  all_goals
    refine ⟨startCommand_idle _ hbusy, ?_⟩
    have h := monmul_completesWith_monMul (s := s)
    rw [hX, hY, hM, hm] at h
    exact h (by decide)

end Sys2Proof.Machine

/-! PROOFS. The bit width and the radix, the square-and-multiply loop in Montgomery form, how every command in progress
comes to its end, and the obligations of 41_modular_exponentiation.md. -/

namespace Sys2Proof.Machine

/-! ### The bit width and the radix -/

section Radix

variable {M T k n v : Nat}

theorem bitlen_le_iff : bitlen v ≤ n ↔ v < 2 ^ n :=
  ⟨fun h => (lt_two_pow_bitlen v).trans_le (Nat.pow_le_pow_right two_pos h), bitlen_le⟩

theorem bitlen_eq_clog (v : Nat) : bitlen v = Nat.clog 2 (v + 1) :=
  eq_of_forall_ge_iff fun _ => bitlen_le_iff.trans (Nat.clog_le_iff_le_pow one_lt_two).symm

theorem shiftRight_eq_zero_iff : v >>> k = 0 ↔ bitlen v ≤ k := by
  rw [bitlen_le_iff, Nat.shiftRight_eq_div_pow, Nat.div_eq_zero_iff_lt (Nat.two_pow_pos k)]

theorem ValidModulus.two_pow_bitlen_add_two_le (hM : ValidModulus M) : 2 ^ bitlen M + 2 ≤ 2 * M :=
  Machine.two_pow_bitlen_add_two_le hM.1 (by obtain ⟨hodd, h1⟩ := hM; omega)

theorem ValidModulus.two_le_bitlen (hM : ValidModulus M) : 2 ≤ bitlen M := by
  by_contra h
  have hlt : M < 2 ^ 1 := bitlen_le_iff.1 (by omega)
  obtain ⟨-, h1⟩ := hM
  omega

/-- An odd number greater than 1 is no power of two (41_modular_exponentiation.md R120). -/
theorem ValidModulus.two_pow_pred_bitlen_lt (hM : ValidModulus M) : 2 ^ (bitlen M - 1) < M := by
  have hle := hM.two_pow_bitlen_add_two_le
  obtain ⟨m, hm⟩ : ∃ m, bitlen M = m + 1 := ⟨bitlen M - 1, by have := hM.two_le_bitlen; omega⟩
  rw [hm, pow_succ] at hle
  rw [hm, Nat.add_sub_cancel]
  omega

/-- One subtraction reduces 2^m (41_modular_exponentiation.md R121). -/
theorem radixResidue_eq_sub (hM : ValidModulus M) : radixResidue M = 2 ^ bitlen M - M := by
  have hlt := lt_two_pow_bitlen M
  have hle := hM.two_pow_bitlen_add_two_le
  rw [radixResidue, Nat.mod_eq_sub_mod hlt.le, Nat.mod_eq_of_lt (by omega)]

theorem subOnce_eq_mod (h : T < 2 * M) : subOnce M T = T % M := by
  rw [← Nat.mod_eq_of_lt (subOnce_lt h)]
  exact subOnce_modEq M T

/-- k modular doublings of v multiply it by 2^k (41_modular_exponentiation.md R122). -/
theorem iterate_double_eq_mod (hv : v < M) (k : Nat) :
    (fun x => subOnce M (2 * x))^[k] v = 2 ^ k * v % M := by
  induction k with
  | zero => simp [Nat.mod_eq_of_lt hv]
  | succ k ih =>
    have hlt : 2 ^ k * v % M < M := Nat.mod_lt _ (Nat.zero_lt_of_lt hv)
    rw [Function.iterate_succ_apply', ih, subOnce_eq_mod (by omega), Nat.mul_mod_mod, pow_succ', mul_assoc]

end Radix

/-! ### Values in Montgomery form -/

section MontgomeryForm

variable {M X Y x y : Nat}

/-- X is the Montgomery form of x: x·Rm modulo M, and below M. -/
def IsMontgomeryForm (M x X : Nat) : Prop := X ≡ x * radixResidue M [MOD M] ∧ X < M

/-- Converting a value in gives its Montgomery form (41_modular_exponentiation.md R124, R125). -/
theorem isMontgomeryForm_monMul_radixSquare (hM : ValidModulus M) (hx : x < M) :
    IsMontgomeryForm M x (monMul x (radixSquare M) M (bitlen M)) := by
  rw [monMul_radixSquare hM hx]
  exact ⟨Nat.mod_modEq _ M, Nat.mod_lt _ (Nat.zero_lt_of_lt hx)⟩

/-- The product of two Montgomery forms is the form of the product: one of the two factors 2^m is cancelled. -/
theorem IsMontgomeryForm.monMul (hM : ValidModulus M) (hX : IsMontgomeryForm M x X) (hY : IsMontgomeryForm M y Y) :
    IsMontgomeryForm M (x * y) (monMul X Y M (bitlen M)) := by
  obtain ⟨hX, hXlt⟩ := hX
  obtain ⟨hY, hYlt⟩ := hY
  have hprod : 2 ^ bitlen M * (x * y * radixResidue M) ≡ X * Y [MOD M] :=
    calc 2 ^ bitlen M * (x * y * radixResidue M)
        ≡ radixResidue M * (x * y * radixResidue M) [MOD M] := (radixResidue_modEq M).symm.mul_right _
      _ = x * radixResidue M * (y * radixResidue M) := by ring
      _ ≡ X * Y [MOD M] := (hX.mul hY).symm
  rw [monMul_eq_mod hM hXlt hYlt hprod]
  exact ⟨Nat.mod_modEq _ M, Nat.mod_lt _ (Nat.zero_lt_of_lt hXlt)⟩

/-- Multiplying by the plain 1 takes the factor Rm off (41_modular_exponentiation.md R127). -/
theorem IsMontgomeryForm.monMul_one (hM : ValidModulus M) (hX : IsMontgomeryForm M x X) :
    Machine.monMul X 1 M (bitlen M) = x % M := by
  obtain ⟨hX, hXlt⟩ := hX
  refine monMul_eq_mod hM hXlt hM.2 ?_
  calc 2 ^ bitlen M * x
      ≡ radixResidue M * x [MOD M] := (radixResidue_modEq M).symm.mul_right x
    _ = x * radixResidue M := mul_comm ..
    _ ≡ X [MOD M] := hX.symm
    _ = X * 1 := (mul_one X).symm

end MontgomeryForm

/-! ### The square-and-multiply loop -/

section Loop

variable {M m E acc bs b e k x y : Nat}

theorem expLoop_zero_exponent (M m n acc bs : Nat) : expLoop M m n 0 acc bs = acc := by
  cases n <;> rfl

theorem expAfter_succ (h : expAfter M m e acc bs k = (E, x, y)) (hE : E ≠ 0) : expAfter M m e acc bs (k + 1) =
    (E >>> 1, if E.testBit 0 then monMul x y M m else x, monMul y y M m) := by
  simp only [expAfter, h, if_neg hE]

/-- The loop may be cut after k iterations and run on from the registers it has reached. -/
theorem expLoop_add (M m n e acc bs k : Nat) :
    expLoop M m (n + k) e acc bs =
      expLoop M m n (expAfter M m e acc bs k).1 (expAfter M m e acc bs k).2.1 (expAfter M m e acc bs k).2.2 := by
  induction k generalizing n with
  | zero => rfl
  | succ k ih =>
    rw [← Nat.succ_add_eq_add_succ, ih (n + 1)]
    rcases hk : expAfter M m e acc bs k with ⟨E, x, y⟩
    by_cases hE : E = 0
    · simp [expAfter, hk, hE, expLoop_zero_exponent]
    · rw [expAfter_succ hk hE, expLoop, if_neg hE]

theorem expLoop_eq_expAfter (M m k e acc bs : Nat) : expLoop M m k e acc bs = (expAfter M m e acc bs k).2.1 := by
  simpa [expLoop] using expLoop_add M m 0 e acc bs k

/-- acc and bs after k iterations (41_modular_exponentiation.md R126): the low k bits of the exponent are in acc. -/
theorem expAfter_isMontgomeryForm (hM : ValidModulus M) (hacc : IsMontgomeryForm M 1 acc)
    (hbs : IsMontgomeryForm M b bs) (hk : k ≤ bitlen e) :
    ∃ x y, expAfter M (bitlen M) e acc bs k = (e >>> k, x, y) ∧
      IsMontgomeryForm M (b ^ (e % 2 ^ k)) x ∧ IsMontgomeryForm M (b ^ 2 ^ k) y := by
  induction k with
  | zero => exact ⟨acc, bs, rfl, by simpa [Nat.mod_one] using hacc, by simpa using hbs⟩
  | succ k ih =>
    obtain ⟨x, y, hafter, hx, hy⟩ := ih (Nat.le_of_succ_le hk)
    have hE : e >>> k ≠ 0 := fun h => absurd (shiftRight_eq_zero_iff.1 h) (by omega)
    refine ⟨_, _, (expAfter_succ hafter hE).trans (by rw [← Nat.shiftRight_add]), ?_, ?_⟩
    · rw [Nat.mod_pow_succ, ← Nat.toNat_testBit, Nat.testBit_shiftRight, Nat.add_zero]
      cases e.testBit k with
      | false => simpa using hx
      | true => simpa [pow_add] using hx.monMul hM hy
    · rw [pow_succ, mul_two, pow_add]
      exact hy.monMul hM hy

/-- Square and multiply computes the power (41_modular_exponentiation.md R129). -/
theorem modExp_eq_pow_mod (hM : ValidModulus M) (base exponent : Nat) :
    modExp base exponent M = base ^ exponent % M := by
  have hacc := isMontgomeryForm_monMul_radixSquare hM hM.2
  have hbs := isMontgomeryForm_monMul_radixSquare hM (Nat.mod_lt base (Nat.zero_lt_of_lt hM.2))
  obtain ⟨x, y, hafter, hx, -⟩ := expAfter_isMontgomeryForm hM hacc hbs (le_refl (bitlen exponent))
  calc modExp base exponent M
      = monMul x 1 M (bitlen M) := by rw [modExp, expLoop_eq_expAfter, hafter]
    _ = (base % M) ^ (exponent % 2 ^ bitlen exponent) % M := hx.monMul_one hM
    _ = base ^ exponent % M := by rw [Nat.mod_eq_of_lt (lt_two_pow_bitlen exponent), ← Nat.pow_mod]

end Loop

/-! ### The products of a MODEXP -/

section Products

variable {W : Nat} {b : Block W} {k : Caller}

/-- The products of a MODEXP multiply b, 1, acc and bs by RR, bs and 1, all of them below M
(41_modular_exponentiation.md R131). -/
theorem Block.CallerReady.operands (hr : b.CallerReady k) (ho : b.OperandsOf k) (hk : k ≠ .monmul) :
    (b.mul.X.toNat < b.latch.M.toNat ∧ b.mul.Y.toNat < b.latch.M.toNat) ∧
      (b.mul.X = b.ex.b ∨ b.mul.X = 1 ∨ b.mul.X = b.ex.acc ∨ b.mul.X = b.ex.bs) ∧
      (b.mul.Y = b.ex.RR ∨ b.mul.Y = b.ex.bs ∨ b.mul.Y = 1) := by
  obtain ⟨hmodexp, -, -, hRR⟩ := hr.paramsFilled hk
  have hM := hmodexp.modulus_pos
  have hRRlt : b.ex.RR.toNat < b.latch.M.toNat := hRR.trans_lt (radixSquare_lt hM)
  have hone : (1 : BitVec W).toNat < b.latch.M.toNat := by
    rw [hmodexp.toNat_one]
    exact ((Latch.validModulus_iff _).1 hmodexp.2).2
  obtain ⟨-, -, hXY⟩ := ho
  cases k <;> dsimp only at hXY <;> obtain ⟨hX, hY⟩ := hXY <;> rw [hX, hY]
  case monmul => exact absurd rfl hk
  case convIn =>
    obtain ⟨-, hb⟩ := hr
    exact ⟨⟨hb.trans_lt (Nat.mod_lt _ hM), hRRlt⟩, .inl rfl, .inl rfl⟩
  case convOne => exact ⟨⟨hone, hRRlt⟩, .inr (.inl rfl), .inl rfl⟩
  case loopMul =>
    obtain ⟨-, -, hacc, hbs, -⟩ := hr
    exact ⟨⟨hacc, hbs⟩, .inr (.inr (.inl rfl)), .inr (.inl rfl)⟩
  case loopSqr =>
    obtain ⟨hbs, -⟩ := hr
    exact ⟨⟨hbs, hbs⟩, .inr (.inr (.inr rfl)), .inr (.inl rfl)⟩
  case convOut =>
    obtain ⟨-, -, hacc, -⟩ := hr
    exact ⟨⟨hacc, hone⟩, .inr (.inr (.inl rfl)), .inr (.inr rfl)⟩

theorem Block.EngineInv.inProduct (h : b.EngineInv) (hp : b.phase = .mmIter ∨ b.phase = .mmFinal) :
    b.CallerReady b.caller ∧ b.OperandsOf b.caller := by
  rcases hp with hp | hp <;> simp only [Block.EngineInv, hp] at h <;> obtain ⟨hr, ho, -⟩ := h <;> exact ⟨hr, ho⟩

end Products

/-! ### A command in progress comes to its end -/

section Termination

variable {W : Nat} {b t : Block W}

/-- How far the end of the command is when the Montgomery product of a caller runs: 2 for each bit that is left of the
exponent (B before the loop, E inside it), since an iteration is at most a product and a squaring
(41_modular_exponentiation.md R130). -/
def callerDistance (B E : Nat) : Caller → Nat
  | .monmul => 0
  | .convOut => 0
  | .loopSqr => 2 * bitlen E + 1
  | .loopMul => 2 * bitlen E + 2
  | .convOne => 2 * bitlen B + 3
  | .convIn => 2 * bitlen B + 4

/-- How far the end of the command is from a phase, the iterations inside one product not counted. -/
def Block.distance (b : Block W) : Nat :=
  match b.phase with
  | .idle => 0
  | .check => 2 * bitlen b.latch.B.toNat + 7
  | .param => 2 * bitlen b.latch.B.toNat + 6
  | .reduce => 2 * bitlen b.latch.B.toNat + 5
  | .convIn => callerDistance b.latch.B.toNat b.ex.E.toNat .convIn
  | .convOne => callerDistance b.latch.B.toNat b.ex.E.toNat .convOne
  | .loopMul => callerDistance b.latch.B.toNat b.ex.E.toNat .loopMul
  | .loopSqr => callerDistance b.latch.B.toNat b.ex.E.toNat .loopSqr
  | .convOut => callerDistance b.latch.B.toNat b.ex.E.toNat .convOut
  | .mmIter => callerDistance b.latch.B.toNat b.ex.E.toNat b.caller
  | .mmFinal => callerDistance b.latch.B.toNat b.ex.E.toNat b.caller

/-- The iterations of the multiplier still to come; before a product begins, more than any product has. -/
def Block.iterationsLeft (b : Block W) : Nat :=
  match b.phase with
  | .mmIter => b.mul.m.toNat - b.mul.i.toNat
  | .mmFinal => 0
  | _ => 2 ^ counterWidth W

/-- t is closer than b to the end of the command, or as close and closer to the end of the product. -/
def Block.Closer (b t : Block W) : Prop :=
  t.distance < b.distance ∨ (t.distance = b.distance ∧ t.iterationsLeft < b.iterationsLeft)

/-- Where the loop goes for the exponent E is no farther from the end than the bits of E say. -/
theorem Block.distance_of_loopPhase (hp : b.phase = loopPhase b.ex.E) :
    b.distance ≤ if b.ex.E = 0 then 0 else 2 * bitlen b.ex.E.toNat + 2 := by
  by_cases h0 : b.ex.E = 0
  · rw [loopPhase, if_pos h0] at hp
    simp [Block.distance, hp, callerDistance]
  · rw [loopPhase, if_neg h0] at hp
    rw [if_neg h0]
    split at hp <;> simp [Block.distance, hp, callerDistance]

theorem Block.startMonMul_closer {k : Caller} {X Y M : BitVec W} {m : BitVec (counterWidth W)}
    (hd : callerDistance b.latch.B.toNat b.ex.E.toNat k ≤ b.distance) (hi : b.iterationsLeft = 2 ^ counterWidth W) :
    b.Closer (b.startMonMul k X Y M m) := by
  have hlt : (b.startMonMul k X Y M m).iterationsLeft < b.iterationsLeft := by
    rw [hi]
    exact (Nat.sub_le ..).trans_lt m.isLt
  rcases hd.lt_or_eq with hd | hd
  · exact .inl hd
  · exact .inr ⟨hd, hlt⟩

theorem Block.mmIter_closer (hp : b.phase = .mmIter) (hi : b.mul.i.toNat < b.mul.m.toNat) : b.Closer b.mmIter := by
  by_cases hlast : b.mul.iterate.i = b.mul.iterate.m
  · have hphase : b.mmIter.phase = .mmFinal := if_pos hlast
    refine .inr ⟨by simp only [Block.distance, hp, hphase]; rfl, ?_⟩
    simp only [Block.iterationsLeft, hp, hphase]
    omega
  · have hphase : b.mmIter.phase = .mmIter := if_neg hlast
    refine .inr ⟨by simp only [Block.distance, hp, hphase]; rfl, ?_⟩
    simp only [Block.iterationsLeft, hp, hphase, Block.mmIter_mul, Multiplier.iterate_m,
      Multiplier.iterate_i_toNat hi]
    omega

theorem Block.check_closer (hp : b.phase = .check) : b.check.busy = false ∨ b.Closer b.check := by
  have hi : b.iterationsLeft = 2 ^ counterWidth W := by simp only [Block.iterationsLeft, hp]
  unfold Block.check
  split
  case h_1 =>
    unfold checkMonmul
    split
    · exact .inl rfl
    · split
      · exact .inl rfl
      · exact .inr (startMonMul_closer (Nat.zero_le _) hi)
  case h_2 =>
    unfold checkModexp
    split
    · exact .inl rfl
    · exact .inr (.inl (by simp [Block.distance, hp]))
  case h_3 => exact .inl rfl
  case h_4 => exact .inl rfl
  case h_5 hc => exact absurd hc (commandOfOp_ne_nocmd _)

/-- The squaring takes a bit off the exponent, so the loop comes closer to its end. -/
theorem bitlen_ushiftRight_one {E : BitVec W} (h : E >>> 1 ≠ 0) :
    bitlen E.toNat = bitlen (E >>> 1).toNat + 1 := by
  rw [BitVec.toNat_ushiftRight]
  exact bitlen_shiftRight_one fun h0 => h (BitVec.eq_of_toNat_eq (by rw [BitVec.toNat_ushiftRight, h0]; rfl))

theorem Block.mmFinal_closer (free : BitVec W) (hp : b.phase = .mmFinal) :
    (b.mmFinal free).busy = false ∨ b.Closer (b.mmFinal free) := by
  unfold Block.mmFinal Block.returnToCaller
  dsimp only
  cases hk : b.caller <;> dsimp only
  case monmul => exact .inl rfl
  case convOut => exact .inl rfl
  all_goals
    refine .inr (.inl ?_)
    have hb : b.distance = callerDistance b.latch.B.toNat b.ex.E.toNat b.caller := by simp only [Block.distance, hp]
    rw [hb, hk]
  case convIn => exact Nat.lt_succ_self _
  case convOne =>
    refine (distance_of_loopPhase (b := Block.returnConvOne _) rfl).trans_lt ?_
    split <;> simp [callerDistance]
  case loopMul => exact Nat.lt_succ_self _
  case loopSqr =>
    refine (distance_of_loopPhase (b := Block.returnLoopSqr _) rfl).trans_lt ?_
    split
    · exact Nat.succ_pos _
    · rename_i hE
      simp only [Block.returnLoopSqr_ex] at hE ⊢
      rw [callerDistance, bitlen_ushiftRight_one hE]
      omega

/-- Every micro-step ends the command or brings it closer to its end, phase by phase. -/
theorem Block.tick_closer (free : BitVec W) (h : b.EngineInv) (hidle : b.phase ≠ .idle) :
    (b.tick free).busy = false ∨ b.Closer (b.tick free) := by
  unfold Block.tick
  cases hp : b.phase <;> dsimp only
  case idle => exact absurd hp hidle
  case check => exact check_closer hp
  case param => exact .inr (.inl (by simp [Block.distance, hp]))
  case reduce => exact .inr (.inl (by simp [Block.distance, hp, callerDistance]))
  case mmIter =>
    simp only [Block.EngineInv, hp] at h
    obtain ⟨-, -, hi, -⟩ := h
    exact .inr (mmIter_closer hp hi)
  case mmFinal => exact mmFinal_closer free hp
  all_goals
    refine .inr (startMonMul_closer ?_ ?_)
    · simp only [Block.distance, hp, le_refl]
    · simp only [Block.iterationsLeft, hp]

/-- A command in progress completes after finitely many micro-steps (70_reset_and_hazards.md R192). -/
theorem exists_engineTicks_idle (s : State) (hi : s.toBlock.Inv) : ∃ n, (engineTicks n s).busy = false := by
  cases hb : s.busy with
  | false => exact ⟨0, hb⟩
  | true =>
    have hidle : s.phase ≠ .idle := fun e => absurd (hb.symm.trans (hi.status.phase_idle.1 e)) (by decide)
    have hstep : (engineTick s).busy = false ∨ s.toBlock.Closer (engineTick s).toBlock := by
      rw [engineTick_busy hb]
      exact Block.tick_closer _ hi.engine hidle
    rcases hstep with hend | hcloser
    · exact ⟨1, hend⟩
    · obtain ⟨n, hn⟩ := exists_engineTicks_idle (engineTick s) (engineTick_inv hi)
      exact ⟨n + 1, hn⟩
termination_by (s.toBlock.distance, s.toBlock.iterationsLeft)
decreasing_by
  rw [Prod.lex_def]
  exact hcloser

end Termination

/-! ### How a command ends -/

section Endings

variable {W : Nat} {L : Latch W}

/-- The code that a completion leaves in STATUS.ERR (10_state.md R38). -/
def Completion.code (r : Completion W) : BitVec 3 :=
  match r with
  | .ok _ => 0
  | .error e => e.code

/-- What RESULT holds after a completion, from what it held before (10_state.md R23, R38). -/
def Completion.resultAfter (r : Completion W) (before : BitVec W) : BitVec W :=
  match r with
  | .ok z => z
  | .error _ => before

theorem Completion.code_of_shownBy {r : Completion W} {b : Block W} (h : r.shownBy b) : r.code = b.err := by
  cases r with
  | ok z => exact h.1.symm
  | error e => exact h.symm

theorem Completion.resultAfter_of_code_ne_zero {r : Completion W} (h : r.code ≠ 0) (before : BitVec W) :
    r.resultAfter before = before := by
  cases r with
  | ok z => exact absurd rfl h
  | error e => rfl

theorem Completion.resultAfter_of_code_eq_zero {r : Completion W} (h : r.code = 0) (before before' : BitVec W) :
    r.resultAfter before = r.resultAfter before' := by
  cases r with
  | ok z => rfl
  | error e => exact absurd h e.code_ne_zero

/-- The free value decides no code. -/
theorem Latch.completion_code (L : Latch W) (free free' : BitVec W) :
    (L.completion free').code = (L.completion free).code := by
  unfold Latch.completion
  cases L.command <;> dsimp only
  case monmul =>
    unfold Latch.monmulCompletion
    cases L.validModulus with
    | false => rfl
    | true =>
      cases L.validBitwidth with
      | false => rfl
      | true => cases L.operandsInRange <;> rfl

/-- The free value is taken only by a MONMUL outside the contract (40_montgomery_multiply.md R97). -/
theorem Latch.completion_eq (h : L.command = .monmul → L.operandsInRange = true) (free free' : BitVec W) :
    L.completion free' = L.completion free := by
  unfold Latch.completion
  cases hc : L.command <;> dsimp only
  case monmul => simp only [Latch.monmulCompletion, h hc, Bool.not_true, Bool.false_eq_true, if_false]

/-- Every command in progress ends as its pseudocode does, for some free value. -/
theorem exists_completesWith_completion {s : State} (hi : s.toBlock.Inv) (hb : s.busy = true) :
    ∃ free, CompletesWith s (s.latch.completion free).code ((s.latch.completion free).resultAfter s.result) := by
  obtain ⟨n, hn⟩ := exists_engineTicks_idle s hi
  obtain ⟨k, hgo, hend⟩ := exists_last_goesOn hb hn
  have hshown := (engineTicks_inv (k + 1) hi).shown
  rw [Block.ResultInv, (engineTicks_sameOperands (k + 1) s).latch] at hshown
  cases engineTicks_cases hb (k + 1) with
  | goesOn h _ => exact absurd (h.busy.symm.trans hend) (by decide)
  | ok z h =>
    obtain ⟨free, hfree⟩ := hshown h.done
    refine ⟨free, k, hgo, ?_⟩
    rw [Completion.eq_ok_of_shownBy hfree h.err, h.result]
    exact { engineTicks_sameButCompletion (k + 1) s, h with }
  | error e h =>
    obtain ⟨free, hfree⟩ := hshown h.done
    have hcode := (Completion.code_of_shownBy hfree).trans h.err
    refine ⟨free, k, hgo, ?_⟩
    rw [Completion.resultAfter_of_code_ne_zero (hcode ▸ e.code_ne_zero), hcode]
    exact { engineTicks_sameButCompletion (k + 1) s, h with }

/-- Two commands in progress end alike as far as their pseudocodes agree, whatever else the two states hold. -/
theorem exists_completesWith_both {s s' : State} {P : Prop} (hi : s.toBlock.Inv) (hi' : s'.toBlock.Inv)
    (hb : s.busy = true) (hb' : s'.busy = true)
    (hcode : ∀ free free', (s'.latch.completion free').code = (s.latch.completion free).code)
    (heq : P → ∀ free free', s'.latch.completion free' = s.latch.completion free) :
    ∃ code z z', CompletesWith s code z ∧ CompletesWith s' code z' ∧ (code = 0 → P → z' = z) ∧
      (code ≠ 0 → z = s.result ∧ z' = s'.result) := by
  obtain ⟨free, h⟩ := exists_completesWith_completion hi hb
  obtain ⟨free', h'⟩ := exists_completesWith_completion hi' hb'
  have hc := hcode free free'
  refine ⟨_, _, _, h, hc ▸ h', fun h0 hP => ?_, fun hne => ⟨?_, ?_⟩⟩
  · rw [heq hP free free']
    exact Completion.resultAfter_of_code_eq_zero h0 _ _
  · exact Completion.resultAfter_of_code_ne_zero hne _
  · exact Completion.resultAfter_of_code_ne_zero (hc ▸ hne) _

end Endings

/-! ### The obligations of 41_modular_exponentiation.md -/

/-- Settles O22: the loop computes the power in Montgomery form, and the command ends with the loop's value. -/
theorem modexpComputesThePower : Obligations.ModexpComputesThePower := by
  refine ⟨fun s hbusy hM => ⟨startCommand_idle _ hbusy, ?_⟩, fun _ _ _ hM => modExp_eq_pow_mod hM _ _, by decide⟩
  have hi : (s.accepted 0b10).toBlock.Inv := Block.accept_inv 0b10 s.toBlock
  have hc : (s.accepted 0b10).latch.command = .modexp := commandOfOp_opOf (i := .modexp) (by decide)
  have hv : (s.accepted 0b10).latch.validModulus = true := (Latch.validModulus_iff _).2 hM
  obtain ⟨n, hn⟩ := exists_engineTicks_idle _ hi
  refine ⟨_, completesWith_of_completion_ok hi rfl (fun free => Latch.completion_modexp_ok free hc hv) hn, ?_⟩
  have hlt : s.opa.toNat ^ s.opb.toNat % s.mod.toNat < 2 ^ Config.W :=
    (Nat.mod_lt _ (Nat.zero_lt_of_lt hM.2)).trans s.mod.isLt
  simp only [State.accepted_latch, modExp_eq_pow_mod hM]
  rw [BitVec.toNat_ofNat, Nat.mod_eq_of_lt hlt]

/-- Settles O32: a command ends as the pseudocode of its latch does, and the latch holds the operand registers. -/
theorem nothingCarriesFromCommandToCommand : Obligations.NothingCarriesFromCommandToCommand := by
  intro s s' _ _ hA hB hM
  have inv (op : BitVec 2) (u : State) : (u.accepted op).toBlock.Inv := Block.accept_inv op u.toBlock
  refine ⟨?_, fun hm i hi => ?_⟩
  · have hc (u : State) : (u.accepted 0b10).latch.command = .modexp := commandOfOp_opOf (i := .modexp) (by decide)
    have heq (free free' : Word) :
        (s'.accepted 0b10).latch.completion free' = (s.accepted 0b10).latch.completion free := by
      rw [Latch.completion_modexp free (hc s), Latch.completion_modexp free' (hc s'), State.accepted_latch,
        State.accepted_latch, hA, hB, hM]
      rfl
    obtain ⟨code, z, z', h, h', hz, hresult⟩ := exists_completesWith_both (P := True) (inv 0b10 s) (inv 0b10 s') rfl rfl
      (fun free free' => congrArg Completion.code (heq free free')) (fun _ => heq)
    exact ⟨code, z, z', h, h', fun h0 => hz h0 trivial, hresult⟩
  · have hlatch : (s'.accepted (opOf i)).latch = (s.accepted (opOf i)).latch := by
      rw [State.accepted_latch, State.accepted_latch, hA, hB, hM, hm]
    have hc : (s.accepted (opOf i)).latch.command = i := commandOfOp_opOf hi
    refine exists_completesWith_both (inv _ s) (inv _ s') rfl rfl (fun free free' => ?_) (fun hrange free free' => ?_)
    · rw [hlatch]
      exact Latch.completion_code _ free free'
    · rw [hlatch]
      refine Latch.completion_eq (fun hmonmul => ?_) free free'
      obtain ⟨hX, hY⟩ := hrange (hc.symm.trans hmonmul)
      exact Bool.and_eq_true_iff.2 ⟨decide_eq_true hX, decide_eq_true hY⟩

/-- Settles O39: the invariant of a product and the command, which is no MONMUL. -/
theorem modexpCallsStayInTheContract : Obligations.ModexpCallsStayInTheContract := by
  intro s hs hop hp
  obtain ⟨hr, ho⟩ := hs.inv.engine.inProduct hp
  have hcommand : s.latch.command = .modexp := congrArg commandOfOp hop
  have hk : s.caller ≠ .monmul := fun hk => by
    rw [hk] at hr
    exact absurd (hr.1.symm.trans hcommand) (by decide)
  obtain ⟨⟨hX, hY⟩, hXmem, hYmem⟩ := hr.operands ho hk
  obtain ⟨hM, hm, -⟩ := ho
  rw [hM, hm]
  have hvalid := (Latch.validModulus_iff _).1 hr.validModulus
  exact ⟨contractRegion_of_lt hvalid hX hY, rfl, hX, hY, lt_two_pow_bitlen _, hXmem, hYmem⟩

/-- Settles O46: bitlen(M) ≤ n exactly when M < 2^n. -/
theorem bitlenIsTheSmallestWidth : Obligations.BitlenIsTheSmallestWidth := by
  refine ⟨fun M n => bitlen_le_iff, bitlen_eq_clog, fun M => ?_, fun W M hM hW =>
    ⟨hM.two_le_bitlen, bitlen_le hW, hM.two_pow_pred_bitlen_lt, lt_two_pow_bitlen M⟩⟩
  split
  · rw [‹M = 0›]
    rfl
  · exact bitlen_shiftRight_one ‹_›

/-- Settles O47: 2^m lies between M and 2M − 2. -/
theorem radixResidueNeedsOneSubtraction : Obligations.RadixResidueNeedsOneSubtraction := by
  intro M hM
  have hlt := lt_two_pow_bitlen M
  have hle := hM.two_pow_bitlen_add_two_le
  have hRm := radixResidue_eq_sub hM
  exact ⟨hlt, by omega, rfl, hRm, by omega, radixResidue_lt (Nat.zero_lt_of_lt hM.2),
    (coprime_two_pow hM.1 _).symm⟩

/-- Settles O48: k doublings of Rm give 2^k·Rm modulo M, and 2^m is Rm modulo M. -/
theorem radixSquareByDoublings : Obligations.RadixSquareByDoublings := by
  intro W M hM hW
  have hpos : 0 < M := Nat.zero_lt_of_lt hM.2
  have hRm := radixResidue_lt hpos
  refine ⟨by rw [radixSquare, sq], radixSquare_lt hpos, ?_, ?_, fun k => ?_⟩
  · rw [mul_comm, pow_mul]
    exact Nat.pow_lt_pow_left (hRm.trans hW) two_ne_zero
  · rw [iterate_double_eq_mod hRm]
    exact (radixResidue_modEq M).symm.mul_right _
  · have hlt : 2 ^ k * radixResidue M % M < M := Nat.mod_lt _ hpos
    rw [iterate_double_eq_mod hRm, pow_succ]
    omega

/-- Settles O51: converting in gives the Montgomery form of v, and converting out takes the factor off. -/
theorem conversionRoundTrip : Obligations.ConversionRoundTrip := by
  intro M v hM hv
  rw [(isMontgomeryForm_monMul_radixSquare hM hv).monMul_one hM, Nat.mod_eq_of_lt hv]

/-- Settles O52: acc and bs are Montgomery forms of the powers, and the k-th iteration takes in bit k. -/
theorem squareAndMultiplyLoop : Obligations.SquareAndMultiplyLoop := by
  intro M b e hM hb
  refine ⟨_, _, rfl, rfl, fun k hk => ?_, fun k hk h0 => ?_, shiftRight_eq_zero_iff.2 le_rfl,
    fun W hW => bitlen_le hW,
    (expLoop_eq_expAfter ..).symm⟩
  · obtain ⟨acc, bs, hafter, ⟨hacc, hacclt⟩, ⟨hbs, hbslt⟩⟩ :=
      expAfter_isMontgomeryForm hM (isMontgomeryForm_monMul_radixSquare hM hM.2)
        (isMontgomeryForm_monMul_radixSquare hM hb) hk
    exact ⟨acc, bs, hafter, hacc, hbs, hacclt, hbslt⟩
  · exact absurd (shiftRight_eq_zero_iff.1 h0) (by omega)

end Sys2Proof.Machine

/-! PROOFS. Which code a command ends with, where an error ends it, that a dropped START is not seen by the engine, and
the obligations of 60_exceptions.md. -/

namespace Sys2Proof.Machine

/-! ### The first code that holds -/

section Codes

variable {W M m : Nat} {L : Latch W} {i : Instr}

theorem firstCode_reserved (hi : i = .reservedOp00 ∨ i = .reservedOp11) : firstCode i M m = 3 := if_pos hi

theorem firstCode_invalidModulus (hi : i = .monmul ∨ i = .modexp) (hM : M % 2 = 0 ∨ M ≤ 1) : firstCode i M m = 1 := by
  rcases hi with rfl | rfl <;> simp [firstCode, hM]

theorem firstCode_of_validModulus (hi : i = .monmul ∨ i = .modexp) (hM : ValidModulus M) :
    firstCode i M m = if i = .monmul ∧ m ≠ bitlen M then 4 else 0 := by
  have hM' : ¬ (M % 2 = 0 ∨ M ≤ 1) := by omega
  rcases hi with rfl | rfl <;> simp [firstCode, hM']

/-- MODEXP ignores BITW (60_exceptions.md R155). -/
theorem firstCode_modexp_ne_four (M m : Nat) : firstCode .modexp M m ≠ 4 := by
  by_cases hM : ValidModulus M
  · rw [firstCode_of_validModulus (.inr rfl) hM, if_neg fun h => absurd h.1 (by decide)]
    decide
  · rw [firstCode_invalidModulus (.inr rfl) (by omega)]
    decide

/-- The pseudocode's checks stand in the order of 60_exceptions.md R159. -/
theorem Latch.completion_code_eq_firstCode (L : Latch W) (free : BitVec W) :
    (L.completion free).code = firstCode L.command L.M.toNat L.m.toNat := by
  have invalid (hc : L.command = .monmul ∨ L.command = .modexp) (hv : L.validModulus = false) :
      (L.completion free).code = firstCode L.command L.M.toNat L.m.toNat := by
    have hM : ¬ ValidModulus L.M.toNat := fun h => absurd (hv.symm.trans ((validModulus_iff L).2 h)) (by decide)
    rw [completion_invalidModulus free hc hv, firstCode_invalidModulus hc (by omega)]
    rfl
  cases hc : L.command with
  | monmul =>
    cases hv : L.validModulus with
    | false => exact hc ▸ invalid (.inl hc) hv
    | true =>
      rw [firstCode_of_validModulus (.inl rfl) ((validModulus_iff L).1 hv)]
      cases hm : L.validBitwidth with
      | false =>
        rw [completion_invalidBitwidth free hc hv hm, if_pos ⟨rfl, of_decide_eq_false hm⟩]
        rfl
      | true =>
        rw [if_neg fun h => h.2 (of_decide_eq_true hm), completion_monmul_ok free hc hv hm]
        rfl
  | modexp =>
    cases hv : L.validModulus with
    | false => exact hc ▸ invalid (.inr hc) hv
    | true =>
      rw [firstCode_of_validModulus (.inr rfl) ((validModulus_iff L).1 hv), completion_modexp_ok free hc hv]
      rfl
  | reservedOp00 =>
    rw [completion_reserved free (.inl hc), firstCode_reserved (.inl rfl)]
    rfl
  | reservedOp11 =>
    rw [completion_reserved free (.inr hc), firstCode_reserved (.inr rfl)]
    rfl
  | nocmd => exact absurd hc (commandOfOp_ne_nocmd _)

/-- ERR is 0 but after a completion, and then it is the latched command's code. -/
theorem Block.Inv.err_eq_firstCode {b : Block W} (h : b.Inv) :
    b.err = 0 ∨ b.err = firstCode b.latch.command b.latch.M.toNat b.latch.m.toNat := by
  cases hd : b.done with
  | true =>
    obtain ⟨free, hshown⟩ := h.shown hd
    rw [← Completion.code_of_shownBy hshown, Latch.completion_code_eq_firstCode]
    exact .inr rfl
  | false =>
    refine .inl ?_
    cases hb : b.busy with
    | true => exact (h.status.busy_clear hb).2
    | false => exact (h.status.fresh hb hd).1

end Codes

/-! ### An error ends a command in CHECK -/

section Errors

variable {W : Nat} {b : Block W} {s : State}

/-- CHECK ends the command exactly when its pseudocode ends with an error (60_exceptions.md R152 to R155). -/
theorem Block.check_error_or_busy (hb : b.busy = true) :
    (∃ e, (∀ free, b.latch.completion free = .error e) ∧ b.check = b.raiseError e) ∨
      ((∀ free, (b.latch.completion free).code = 0) ∧ b.check.busy = true) := by
  unfold Block.check
  split
  case h_1 hc =>
    unfold checkMonmul
    cases hv : b.latch.validModulus with
    | false => exact .inl ⟨_, fun free => Latch.completion_invalidModulus free (.inl hc) hv, rfl⟩
    | true =>
      cases hm : b.latch.validBitwidth with
      | false => exact .inl ⟨_, fun free => Latch.completion_invalidBitwidth free hc hv hm, rfl⟩
      | true => exact .inr ⟨fun free => by rw [Latch.completion_monmul_ok free hc hv hm]; rfl, hb⟩
  case h_2 hc =>
    unfold checkModexp
    cases hv : b.latch.validModulus with
    | false => exact .inl ⟨_, fun free => Latch.completion_invalidModulus free (.inr hc) hv, rfl⟩
    | true => exact .inr ⟨fun free => by rw [Latch.completion_modexp_ok free hc hv]; rfl, hb⟩
  case h_3 hc => exact .inl ⟨_, fun free => Latch.completion_reserved free (.inl hc), rfl⟩
  case h_4 hc => exact .inl ⟨_, fun free => Latch.completion_reserved free (.inr hc), rfl⟩
  case h_5 hc => exact absurd hc (commandOfOp_ne_nocmd _)

theorem Block.mmFinal_busy_or_ok (free : BitVec W) (hb : b.busy = true) :
    (b.mmFinal free).busy = true ∨ (b.mmFinal free).err = 0 := by
  unfold Block.mmFinal Block.returnToCaller
  dsimp only
  cases b.caller
  case monmul | convOut => exact .inr rfl
  all_goals exact .inl hb

/-- Only CHECK ends a command with an error, and then with the one its pseudocode gives (60_exceptions.md R160). -/
theorem Block.tick_eq_raiseError {free : BitVec W} (hb : b.busy = true) (hend : (b.tick free).busy = false)
    (herr : (b.tick free).err ≠ 0) :
    ∃ e, (∀ free, b.latch.completion free = .error e) ∧ b.tick free = b.raiseError e := by
  unfold Block.tick at *
  cases hp : b.phase <;> simp only [hp] at hend herr ⊢
  case check =>
    rcases check_error_or_busy hb with h | ⟨-, hbusy⟩
    · exact h
    · exact absurd (hbusy.symm.trans hend) (by decide)
  case mmFinal =>
    rcases mmFinal_busy_or_ok free hb with hbusy | hok
    · exact absurd (hbusy.symm.trans hend) (by decide)
    · exact absurd hok herr
  all_goals exact absurd (hb.symm.trans hend) (by decide)

/-- A command with an error is in CHECK or over, so it reaches no Montgomery product (60_exceptions.md R152). -/
theorem engineTicks_phase_of_code_ne_zero {free : Word} (hb : s.busy = true) (hp : s.phase = .check)
    (hcode : (s.latch.completion free).code ≠ 0) (k : Nat) :
    (engineTicks k s).phase = .check ∨ (engineTicks k s).phase = .idle := by
  cases k with
  | zero => exact .inl hp
  | succ k =>
    have htick : (engineTick s).toBlock = s.toBlock.check := by
      rw [engineTick_busy hb]
      simp only [Block.tick, hp]
    rcases Block.check_error_or_busy hb with ⟨e, -, hraise⟩ | ⟨hok, -⟩
    · have hidle : (engineTick s).busy = false := by rw [htick, hraise, Block.raiseError_busy]
      rw [engineTicks, engineTicks_idle hidle, htick, hraise]
      exact .inr rfl
    · exact absurd (hok free) hcode

end Errors

/-! ### How an accepted command ends -/

section Accepted

variable {s : State} {i : Instr}

theorem exec_idle (hi : i ≠ .nocmd) (hb : s.busy = false) : exec i s = .next (s.accepted (opOf i)) :=
  (exec_command hi s).trans (startCommand_idle _ hb)

/-- A micro-step that ends a command takes the free value of its own draw. -/
theorem engineTick_shownBy (hi : s.toBlock.Inv) (hb : s.busy = true) (hend : (engineTick s).busy = false) :
    (s.latch.completion (Config.freeWord Config.W s.draws)).shownBy (engineTick s).toBlock := by
  have hidle : s.phase ≠ .idle := fun e => absurd (hb.symm.trans (hi.status.phase_idle.1 e)) (by decide)
  rw [engineTick_busy hb] at hend ⊢
  exact (Block.tick_advances hb hi.engine hidle).2 hend

/-- Every command in progress ends as its pseudocode does, its free value the one of a draw
(40_montgomery_multiply.md R97). -/
theorem exists_completesWith_freeWord (hi : s.toBlock.Inv) (hb : s.busy = true) :
    ∃ d, CompletesWith s (s.latch.completion (Config.freeWord Config.W d)).code
      ((s.latch.completion (Config.freeWord Config.W d)).resultAfter s.result) := by
  obtain ⟨n, hn⟩ := exists_engineTicks_idle s hi
  obtain ⟨k, hgo, hend⟩ := exists_last_goesOn hb hn
  have hlast := hend
  rw [engineTicks_succ] at hlast
  have hshown := engineTick_shownBy (engineTicks_inv k hi) (hgo k le_rfl).busy hlast
  rw [(engineTicks_sameOperands k s).latch, ← engineTicks_succ] at hshown
  have hcode := Completion.code_of_shownBy hshown
  refine ⟨(engineTicks k s).draws, k, hgo, ?_⟩
  cases engineTicks_cases hb (k + 1) with
  | goesOn h _ => exact absurd (h.busy.symm.trans hend) (by decide)
  | ok z h =>
    rw [Completion.eq_ok_of_shownBy hshown h.err, h.result]
    exact { engineTicks_sameButCompletion (k + 1) s, h with }
  | error e h =>
    rw [h.err] at hcode
    rw [Completion.resultAfter_of_code_ne_zero (hcode ▸ e.code_ne_zero), hcode]
    exact { engineTicks_sameButCompletion (k + 1) s, h with }

theorem accepted_inv (op : BitVec 2) (s : State) : (s.accepted op).toBlock.Inv := Block.accept_inv op s.toBlock

theorem accepted_command (hi : i ≠ .nocmd) (s : State) : (s.accepted (opOf i)).latch.command = i := commandOfOp_opOf hi

theorem accepted_completion_code (hi : i ≠ .nocmd) (s : State) (free : Word) :
    ((s.accepted (opOf i)).latch.completion free).code = firstCode i s.mod.toNat s.bitw.toNat := by
  rw [Latch.completion_code_eq_firstCode, accepted_command hi]
  rfl

/-- Every accepted command ends with the first code that holds (60_exceptions.md R159). -/
theorem accepted_completesWith_firstCode (hi : i ≠ .nocmd) (s : State) :
    ∃ d, CompletesWith (s.accepted (opOf i)) (firstCode i s.mod.toNat s.bitw.toNat)
      (((s.accepted (opOf i)).latch.completion (Config.freeWord Config.W d)).resultAfter s.result) := by
  obtain ⟨d, h⟩ := exists_completesWith_freeWord (accepted_inv (opOf i) s) rfl
  rw [accepted_completion_code hi] at h
  exact ⟨d, h⟩

/-- A command for which an error holds ends with its code and leaves RESULT. -/
theorem accepted_completesWith_error {code : BitVec 3} (hi : i ≠ .nocmd)
    (h : firstCode i s.mod.toNat s.bitw.toNat = code) (hcode : code ≠ 0) :
    CompletesWith (s.accepted (opOf i)) code s.result := by
  subst h
  obtain ⟨d, h⟩ := accepted_completesWith_firstCode hi s
  rwa [Completion.resultAfter_of_code_ne_zero (by rwa [accepted_completion_code hi])] at h

/-- A command for which an error holds never enters the multiplier. -/
theorem accepted_phase_not_multiplier (hi : i ≠ .nocmd) (h : firstCode i s.mod.toNat s.bitw.toNat ≠ 0) (k : Nat) :
    (engineTicks k (s.accepted (opOf i))).phase ≠ .mmIter ∧ (engineTicks k (s.accepted (opOf i))).phase ≠ .mmFinal := by
  have hcode : ((s.accepted (opOf i)).latch.completion 0).code ≠ 0 := by rwa [accepted_completion_code hi]
  have hphase := engineTicks_phase_of_code_ne_zero (s := s.accepted (opOf i)) rfl rfl hcode k
  rcases hphase with hp | hp <;> rw [hp] <;> decide

end Accepted

/-! ### The engine does not see OVR -/

section Overrun

variable {W : Nat}

/-- CHECK reads no field of STATUS (60_exceptions.md R159). -/
theorem Block.check_statusOverrun (b : Block W) : b.statusOverrun.check = b.check.statusOverrun := by
  unfold Block.check checkMonmul checkModexp
  rw [Block.statusOverrun_latch]
  split
  · split
    · rfl
    · split <;> rfl
  · split <;> rfl
  all_goals rfl

theorem Block.mmFinal_statusOverrun (free : BitVec W) (b : Block W) :
    b.statusOverrun.mmFinal free = (b.mmFinal free).statusOverrun := by
  unfold Block.mmFinal Block.returnToCaller
  dsimp only
  rw [Block.statusOverrun_caller]
  cases b.caller <;> rfl

/-- No micro-step reads or writes OVR (10_state.md R31). -/
theorem Block.tick_statusOverrun (free : BitVec W) (b : Block W) :
    b.statusOverrun.tick free = (b.tick free).statusOverrun := by
  unfold Block.tick
  rw [Block.statusOverrun_phase]
  cases b.phase
  case check => exact check_statusOverrun b
  case mmFinal => exact mmFinal_statusOverrun free b
  all_goals rfl

theorem engineTick_statusOverrun (s : State) :
    engineTick { s with toBlock := s.toBlock.statusOverrun } =
      { engineTick s with toBlock := (engineTick s).toBlock.statusOverrun } := by
  cases hb : s.busy with
  | true =>
    rw [engineTick_busy hb, engineTick_busy (s := { s with toBlock := s.toBlock.statusOverrun }) hb]
    simp only [Block.tick_statusOverrun]
  | false => rw [engineTick_idle hb, engineTick_idle (s := { s with toBlock := s.toBlock.statusOverrun }) hb]

theorem engineTicks_statusOverrun (k : Nat) (s : State) :
    engineTicks k { s with toBlock := s.toBlock.statusOverrun } =
      { engineTicks k s with toBlock := (engineTicks k s).toBlock.statusOverrun } := by
  induction k generalizing s with
  | zero => rfl
  | succ k ih =>
    rw [engineTicks, engineTick_statusOverrun]
    exact ih (engineTick s)

end Overrun

/-! ### The obligations of 60_exceptions.md -/

/-- Settles O17: no error holds, and the pseudocode takes the free value of the last micro-step's draw. -/
theorem monmulOutsideTheContractCompletes : Obligations.MonmulOutsideTheContractCompletes := by
  intro s hbusy hM hm hout
  refine ⟨exec_idle (i := .monmul) (by decide) hbusy, ?_⟩
  have hc : (s.accepted 0b01).latch.command = .monmul := accepted_command (i := .monmul) (by decide) s
  have hv : (s.accepted 0b01).latch.validModulus = true := (Latch.validModulus_iff _).2 hM
  have hw : (s.accepted 0b01).latch.validBitwidth = true := decide_eq_true hm
  have hr : (s.accepted 0b01).latch.operandsInRange = false := by
    rw [Latch.operandsInRange, Bool.and_eq_false_iff]
    exact hout.imp (fun h => decide_eq_false h.not_gt) fun h => decide_eq_false h.not_gt
  obtain ⟨d, h⟩ := exists_completesWith_freeWord (accepted_inv 0b01 s) rfl
  rw [Latch.completion_monmul_ok _ hc hv hw, hr] at h
  exact ⟨d, h⟩

/-- Settles O18: the code of an invalid modulus comes first for both commands, and CHECK raises it. -/
theorem invalidModulusRaised : Obligations.InvalidModulusRaised := by
  intro s hbusy hM
  have raised {i : Instr} (hi : i = .monmul ∨ i = .modexp) (hn : i ≠ .nocmd) :
      exec i s = .next (s.accepted (opOf i)) ∧ CompletesWith (s.accepted (opOf i)) 1 s.result ∧
        ∀ k, (engineTicks k (s.accepted (opOf i))).phase ≠ .mmIter ∧
          (engineTicks k (s.accepted (opOf i))).phase ≠ .mmFinal := by
    have hcode : firstCode i s.mod.toNat s.bitw.toNat = 1 := firstCode_invalidModulus hi hM
    exact ⟨exec_idle hn hbusy, accepted_completesWith_error hn hcode (by decide),
      accepted_phase_not_multiplier hn (by rw [hcode]; decide)⟩
  exact ⟨raised (.inl rfl) (by decide), raised (.inr rfl) (by decide)⟩

/-- Settles O19: ERR is 0 or the latched command's code, which is never 4 for a MODEXP. -/
theorem invalidBitwidthRaisedByMonmulOnly : Obligations.InvalidBitwidthRaisedByMonmulOnly := by
  refine ⟨fun s hbusy hM hm => ?_, fun s k _ => ?_⟩
  · have hcode : firstCode .monmul s.mod.toNat s.bitw.toNat = 4 := by
      rw [firstCode_of_validModulus (.inl rfl) hM, if_pos ⟨rfl, hm⟩]
    exact ⟨exec_idle (by decide) hbusy, accepted_completesWith_error (by decide) hcode (by decide)⟩
  · have hc : (s.accepted 0b10).latch.command = .modexp := accepted_command (i := .modexp) (by decide) s
    have herr := (engineTicks_inv k (accepted_inv 0b10 s)).err_eq_firstCode
    rw [(engineTicks_sameOperands k (s.accepted 0b10)).latch, hc] at herr
    rcases herr with h | h <;> rw [h]
    · decide
    · exact firstCode_modexp_ne_four _ _

/-- Settles O20: the code of a reserved command comes before every other, and the decoder reads START and OP only. -/
theorem reservedCommandsRaiseInvalidCommand : Obligations.ReservedCommandsRaiseInvalidCommand := by
  refine ⟨fun s hbusy => ⟨⟨exec_idle (by decide) hbusy, ?_⟩, ⟨exec_idle (by decide) hbusy, ?_⟩⟩,
    fun v hv => ⟨fun hop => ?_, fun hop => ?_⟩,
    ⟨_, 1, memWrite_ctrl_idle (by decide) rfl, by decide, by decide, by decide⟩⟩
  · exact accepted_completesWith_error (i := .reservedOp00) (by decide) (firstCode_reserved (.inl rfl)) (by decide)
  · exact accepted_completesWith_error (i := .reservedOp11) (by decide) (firstCode_reserved (.inr rfl)) (by decide)
  · rw [decode_start hv, hop]
    rfl
  · rw [decode_start hv, hop]
    rfl

/-- Settles O21: the pseudocode's completion has the first code, and the engine ends with the pseudocode's. -/
theorem commandReportsTheFirstCode : Obligations.CommandReportsTheFirstCode := by
  intro s i hbusy hi
  obtain ⟨d, h⟩ := accepted_completesWith_firstCode hi s
  refine ⟨exec_idle hi hbusy, _, h, fun hcode => ?_⟩
  exact Completion.resultAfter_of_code_ne_zero (by rwa [accepted_completion_code hi]) s.result

/-- Settles O24: the START writes OVR, which no micro-step reads. -/
theorem startWhileBusyIsDropped : Obligations.StartWhileBusyIsDropped := by
  intro s i hbusy hi
  exact ⟨(exec_command hi s).trans (startCommand_busy _ hbusy), fun k => engineTicks_statusOverrun k s⟩

/-- Settles O27: the engine stays idle after the completion, which is the pseudocode's. -/
theorem commandCompletesExactlyOnce : Obligations.CommandCompletesExactlyOnce := by
  intro s i hbusy hi
  refine ⟨exec_idle hi hbusy, ?_⟩
  obtain ⟨d, n, hgo, hend⟩ := exists_completesWith_freeWord (accepted_inv (opOf i) s) rfl
  refine ⟨n + 1, _, rfl, fun k hk => ?_, fun k hk => ?_, hend.busy, hend.done, ?_⟩
  · have h := hgo k (Nat.le_of_lt_succ hk)
    exact ⟨h.busy, h.done⟩
  · obtain ⟨j, rfl⟩ := Nat.exists_eq_add_of_le hk
    rw [engineTicks_add, engineTicks_idle hend.busy]
  · have herr := hend.err
    have hresult := hend.result
    cases hr : (s.accepted (opOf i)).latch.completion (Config.freeWord Config.W d) with
    | ok z =>
      rw [hr] at herr hresult
      exact .inl ⟨herr, _, hr.trans (congrArg Completion.ok hresult.symm)⟩
    | error e =>
      rw [hr] at herr hresult
      exact .inr ⟨fun h => e.code_ne_zero (herr.symm.trans h), hresult⟩

/-- Settles O30: only CHECK ends a command with an error, by `Block.raiseError`. -/
theorem errorCompletionChangesOnlyStatus : Obligations.ErrorCompletionChangesOnlyStatus := by
  intro s hbusy hend herr
  rw [engineTick_busy hbusy] at hend herr ⊢
  obtain ⟨e, he, htick⟩ := Block.tick_eq_raiseError hbusy hend herr
  refine ⟨e, he, ?_⟩
  rw [htick]
  rfl

/-- Settles O37: the invariant's STATUS rules hold in every reachable state. -/
theorem errCodesOfReachableStates : Obligations.ErrCodesOfReachableStates :=
  fun _ h => h.inv.status.err_codes

end Sys2Proof.Machine

/-! PROOFS. The obligation of 70_reset_and_hazards.md on a reset while a command runs. -/

namespace Sys2Proof.Machine

/-- Settles O41: the reset leaves a clean block, whatever was running, and an idle engine does not move. -/
theorem resetAbortsTheRunningCommand : Obligations.ResetAbortsTheRunningCommand := by
  intro s sched _ hsched
  obtain ⟨t, hstep, ⟨_, _, _, _, hresult, hbusy, hdone, herr, _⟩, hread, _⟩ := resetValues.2 s sched hsched
  exact ⟨t, hstep, hread 1, hbusy, hdone, herr, hresult, engineTicks_idle hbusy⟩

end Sys2Proof.Machine

/-! PROOFS. A decoded word against the mask and the match of the opcode table, and the obligations on encodings that
need them. -/

namespace Sys2Proof.Machine

section TableRows

variable {W : Nat} {v x : BitVec W} {i : Instr}

theorem ctrlMask_eq_and (i : Instr) : ctrlMask i = 7 &&& ctrlMask i := by cases i <;> rfl

theorem ctrlMatch_and_ctrlMask (i : Instr) : ctrlMatch i &&& ctrlMask i = ctrlMatch i := by cases i <;> rfl

/-- Decoding reads the low three bits, at whatever width (30_encoding.md R73). -/
theorem decode_eq_decode_low (v : BitVec W) : decode v = decode (BitVec.ofNat 3 v.toNat) := by
  have hlow : (BitVec.ofNat 3 v.toNat).toNat = v.toNat % 8 := BitVec.toNat_ofNat ..
  have hstart : ctrlStart (BitVec.ofNat 3 v.toNat) = ctrlStart v := by
    rw [ctrlStart_eq_decide, ctrlStart_eq_decide, hlow, Nat.mod_mod_of_dvd _ (by decide)]
  have hop : ctrlOp (BitVec.ofNat 3 v.toNat) = ctrlOp v := by
    apply BitVec.eq_of_toNat_eq
    rw [Laws.TableRow.ctrlOp_toNat, Laws.TableRow.ctrlOp_toNat, hlow]
    omega
  rw [decode, decode, hstart, hop]

/-- The opcode table on the eight values of bits [2:0]. -/
theorem decode_low_eq_iff (u : BitVec 3) (i : Instr) : decode u = i ↔ u.toNat &&& ctrlMask i = ctrlMatch i := by
  cases i <;> revert u <;> decide

/-- Decoding is the opcode table read as mask and match (30_encoding.md section 2). -/
theorem decode_eq_iff (v : BitVec W) (i : Instr) : decode v = i ↔ v.toNat &&& ctrlMask i = ctrlMatch i := by
  have hmask : v.toNat % 8 &&& ctrlMask i = v.toNat &&& ctrlMask i := by
    rw [show v.toNat % 8 = v.toNat &&& 7 from (Nat.and_two_pow_sub_one_eq_mod v.toNat 3).symm, Nat.and_assoc,
      ← ctrlMask_eq_and]
  rw [decode_eq_decode_low, decode_low_eq_iff, BitVec.toNat_ofNat, hmask]

/-- A row's match with any value in the bits that the row does not fix is a word of the row. -/
theorem decode_encode_or (hW : 8 ≤ W) (hx : x.toNat &&& ctrlMask i = 0) : decode (encode W i ||| x) = i := by
  rw [decode_eq_iff, BitVec.toNat_or, Laws.TableRow.encode_toNat hW, Nat.and_or_distrib_right, hx, Nat.or_zero,
    ctrlMatch_and_ctrlMask]

/-- A word of a row is the row's match and, beside it, what the row does not fix. -/
theorem exists_eq_encode_or (hW : 8 ≤ W) (h : decode v = i) :
    ∃ x : BitVec W, x.toNat &&& ctrlMask i = 0 ∧ v = encode W i ||| x := by
  rw [decode_eq_iff] at h
  have henc : encode W i = v &&& BitVec.ofNat W (ctrlMask i) := by
    rw [encode, ← h, BitVec.ofNat_and, BitVec.ofNat_toNat, BitVec.setWidth_eq]
  have hbit : ∀ a m : Bool, a = (a && m || (a ^^ (a && m))) := by decide
  refine ⟨v ^^^ encode W i, ?_, ?_⟩
  · rw [BitVec.toNat_xor, Laws.TableRow.encode_toNat hW, Nat.and_xor_distrib_right, h, ctrlMatch_and_ctrlMask,
      Nat.xor_self]
  · rw [henc]
    ext j
    simpa only [BitVec.getElem_or, BitVec.getElem_xor, BitVec.getElem_and] using hbit _ _

end TableRows

/-! ### The obligations on encodings -/

/-- Settles O4: the bits a row does not fix are those its mask leaves out. -/
theorem decodeEncodeAgree : Obligations.DecodeEncodeAgree :=
  fun _ hW _ _ => ⟨fun _ => decode_encode_or hW, fun _ => exists_eq_encode_or hW⟩

/-- Settles O3: both sides read the low three bits only. -/
theorem decodeMatchesOpcodeTable : Obligations.DecodeMatchesOpcodeTable := fun _ _ => decode_eq_iff

/-- Settles O1, by evaluation of the eleven words. -/
theorem decodeWordsOfTheSpec : Obligations.DecodeWordsOfTheSpec := by
  unfold Obligations.DecodeWordsOfTheSpec
  decide

end Sys2Proof.Machine

/-! PROOFS. A micro-step against the pseudocode of the latch, at every width, the count of the micro-steps of a MODEXP,
and the obligations on the engine and on the invariant. -/

namespace Sys2Proof.Machine

/-! ### A micro-step refines the pseudocode -/

section Refinement

variable {W : Nat} {b : Block W} {s : State}

theorem Block.Inv.phase_ne_idle (h : b.Inv) (hb : b.busy = true) : b.phase ≠ .idle :=
  fun hp => absurd (hb.symm.trans (h.status.phase_idle.1 hp)) (by decide)

/-- A completion shown with the code of an error is an error with that code. -/
theorem Completion.eq_error_of_shownBy {r : Completion W} {e : CommandError} (h : r.shownBy b) (herr : b.err = e.code) :
    ∃ e', r = .error e' ∧ e'.code = e.code := by
  cases r with
  | ok z => exact absurd (herr.symm.trans h.1) e.code_ne_zero
  | error e' => exact ⟨e', rfl, h.symm.trans herr⟩

/-- A micro-step shows nothing to the host, or it is the completion of the latch's pseudocode (10_state.md R38 to
R40). -/
theorem Block.tick_refines (free : BitVec W) (h : b.Inv) (hb : b.busy = true) :
    b.GoesOn (b.tick free) ∨
      (∃ z, b.latch.completion free = .ok z ∧ b.EndsWith (b.tick free) 0 z) ∨
      (∃ e, b.latch.completion free = .error e ∧ b.EndsWith (b.tick free) e.code b.result) := by
  obtain ⟨-, hshown⟩ := tick_advances (free := free) hb h.engine (h.phase_ne_idle hb)
  cases tick_cases free hb with
  | goesOn hgo _ => exact .inl hgo
  | ok z hend =>
    have hok := Completion.eq_ok_of_shownBy (hshown hend.busy) hend.err
    rw [hend.result] at hok
    exact .inr (.inl ⟨z, hok, hend⟩)
  | error e hend =>
    obtain ⟨e', herror, hcode⟩ := Completion.eq_error_of_shownBy (hshown hend.busy) hend.err
    exact .inr (.inr ⟨e', herror, hcode ▸ hend⟩)

theorem engineTick_toBlock (hb : s.busy = true) :
    (engineTick s).toBlock = s.toBlock.tick (Config.freeWord Config.W s.draws) :=
  congrArg State.toBlock (engineTick_busy hb)

/-- A busy engine that becomes idle by micro-steps has completed its command. -/
theorem engineTicks_done {n : Nat} (hb : s.busy = true) (hn : (engineTicks n s).busy = false) :
    (engineTicks n s).done = true := by
  cases engineTicks_cases hb n with
  | goesOn hgo _ => exact absurd (hgo.busy.symm.trans hn) (by decide)
  | ok _ hend => exact hend.done
  | error _ hend => exact hend.done

end Refinement

/-! ### The micro-steps of a MODEXP -/

section StepCount

variable {W : Nat} {b : Block W} {s : State} {E n : Nat}

/-- The products of the square-and-multiply loop for the exponent E: a squaring for each bit, and a product for each
bit that is 1 (41_modular_exponentiation.md R130). -/
def loopCalls (E : Nat) : Nat := bitlen E + (List.range (bitlen E)).countP E.testBit

theorem modExpCalls_eq_loopCalls (E : Nat) : modExpCalls E = loopCalls E + 3 := by
  rw [modExpCalls, loopCalls, List.countP_eq_length_filter]
  omega

/-- The ones among the low n + 1 bits are bit 0 and those among the low n bits of E >>> 1. -/
theorem countP_testBit_succ (E n : Nat) : (List.range (n + 1)).countP E.testBit =
    (List.range n).countP (E >>> 1).testBit + (E.testBit 0).toNat := by
  have hshift : E.testBit ∘ Nat.succ = (E >>> 1).testBit := by
    funext i
    rw [Function.comp_apply, Nat.testBit_shiftRight, Nat.succ_eq_one_add]
  rw [List.range_succ_eq_map, List.countP_cons, List.countP_map, hshift]
  cases E.testBit 0 <;> rfl

/-- One iteration of the loop makes one squaring, and one product if bit 0 is 1. -/
theorem loopCalls_of_ne_zero (hE : E ≠ 0) : loopCalls E = loopCalls (E >>> 1) + 1 + (E.testBit 0).toNat := by
  rw [loopCalls, loopCalls, bitlen_shiftRight_one hE, countP_testBit_succ]
  omega

/-- How many products follow the running one of a caller (41_modular_exponentiation.md R135). -/
def Block.callsAfter (b : Block W) (c : Caller) : Nat :=
  match c with
  | .monmul => 0
  | .convIn => loopCalls b.latch.B.toNat + 2
  | .convOne => loopCalls b.latch.B.toNat + 1
  | .loopMul => loopCalls (b.ex.E.toNat >>> 1) + 2
  | .loopSqr => loopCalls (b.ex.E.toNat >>> 1) + 1
  | .convOut => 0

/-- The micro-steps of n products: one to enter each, m iterations and MM_FINAL (40_montgomery_multiply.md R103). -/
def Block.productSteps (b : Block W) (n : Nat) : Nat := n * (bitlen b.latch.M.toNat + 2)

theorem Block.productSteps_succ (b : Block W) (n : Nat) :
    b.productSteps (n + 1) = b.productSteps n + (bitlen b.latch.M.toNat + 2) := Nat.succ_mul ..

/-- How many micro-steps a MODEXP with a valid modulus has still to make. -/
def Block.stepsLeft (b : Block W) : Nat :=
  match b.phase with
  | .idle => 0
  | .check => b.productSteps (loopCalls b.latch.B.toNat + 3) + 3
  | .param => b.productSteps (loopCalls b.latch.B.toNat + 3) + 2
  | .reduce => b.productSteps (loopCalls b.latch.B.toNat + 3) + 1
  | .convIn => b.productSteps (b.callsAfter .convIn + 1)
  | .convOne => b.productSteps (b.callsAfter .convOne + 1)
  | .loopMul => b.productSteps (b.callsAfter .loopMul + 1)
  | .loopSqr => b.productSteps (b.callsAfter .loopSqr + 1)
  | .convOut => b.productSteps (b.callsAfter .convOut + 1)
  | .mmIter => b.productSteps (b.callsAfter b.caller) + (bitlen b.latch.M.toNat - b.mul.i.toNat) + 1
  | .mmFinal => b.productSteps (b.callsAfter b.caller) + 1

theorem Block.stepsLeft_idle (hp : b.phase = .idle) : b.stepsLeft = 0 := by simp only [Block.stepsLeft, hp]

theorem Block.stepsLeft_pos (hp : b.phase ≠ .idle) : 0 < b.stepsLeft := by
  unfold Block.stepsLeft
  cases h : b.phase <;> dsimp only
  case idle => exact absurd h hp
  case check | param | reduce | mmIter | mmFinal => exact Nat.succ_pos _
  all_goals
    rw [productSteps_succ]
    exact Nat.succ_pos _

/-- Before an iteration of the loop: the products of what is left of the exponent, and the conversion out. -/
theorem Block.stepsLeft_of_loopPhase (hp : b.phase = loopPhase b.ex.E) :
    b.stepsLeft = b.productSteps (loopCalls b.ex.E.toNat + 1) := by
  by_cases h0 : b.ex.E = 0
  · rw [loopPhase, if_pos h0] at hp
    simp only [Block.stepsLeft, hp, h0]
    rfl
  · have hcalls := loopCalls_of_ne_zero fun h => h0 (BitVec.eq_of_toNat_eq h)
    rw [loopPhase, if_neg h0] at hp
    cases hbit : b.ex.E.getLsbD 0 <;> rw [hbit] at hp <;> rw [BitVec.getLsbD] at hbit <;>
      simp only [Block.stepsLeft, hp, hcalls, hbit] <;> rfl

/-- Entering a product is its first micro-step. -/
theorem Block.exMonMul_stepsLeft (c : Caller) (X Y : BitVec W) :
    (b.exMonMul c X Y).stepsLeft + 1 = b.productSteps (b.callsAfter c + 1) := by
  rw [productSteps_succ]
  rfl

theorem Block.mmIter_stepsLeft (hp : b.phase = .mmIter) (hm : b.mul.m.toNat = bitlen b.latch.M.toNat)
    (hi : b.mul.i.toNat < b.mul.m.toNat) : b.mmIter.stepsLeft + 1 = b.stepsLeft := by
  have hi' := Multiplier.iterate_i_toNat hi
  by_cases hlast : b.mul.iterate.i = b.mul.iterate.m
  · have hphase : b.mmIter.phase = .mmFinal := if_pos hlast
    rw [hlast, Multiplier.iterate_m, hm] at hi'
    simp only [Block.stepsLeft, hp, hphase]
    change b.productSteps (b.callsAfter b.caller) + 1 + 1 = _
    omega
  · have hphase : b.mmIter.phase = .mmIter := if_neg hlast
    simp only [Block.stepsLeft, hp, hphase]
    change b.productSteps (b.callsAfter b.caller) + (bitlen b.latch.M.toNat - b.mul.iterate.i.toNat) + 1 + 1 = _
    omega

/-- CHECK lets a MODEXP with a valid modulus pass to PARAM. -/
theorem Block.check_eq_param (h : b.InModexp) : b.check = { b with phase := .param } := by
  obtain ⟨hc, hv⟩ := h
  simp [Block.check, hc, checkModexp, hv]

/-- MM_FINAL is the last micro-step of its product. -/
theorem Block.mmFinal_stepsLeft (free : BitVec W) (hp : b.phase = .mmFinal) :
    (b.mmFinal free).stepsLeft + 1 = b.stepsLeft := by
  simp only [Block.stepsLeft.eq_def b, hp]
  unfold Block.mmFinal Block.returnToCaller
  dsimp only
  cases b.caller <;> dsimp only
  case monmul | convOut =>
    rw [stepsLeft_idle rfl]
    exact congrArg (· + 1) (Nat.zero_mul _).symm
  case convIn | loopMul => rfl
  case convOne => exact congrArg (· + 1) (stepsLeft_of_loopPhase (b := Block.returnConvOne _) rfl)
  case loopSqr =>
    rw [stepsLeft_of_loopPhase (b := Block.returnLoopSqr _) rfl, Block.returnLoopSqr_ex, BitVec.toNat_ushiftRight]
    rfl

/-- Every micro-step of a MODEXP with a valid modulus is one of those that are left, phase by phase. -/
theorem Block.tick_stepsLeft (free : BitVec W) (hc : b.InModexp) (h : b.EngineInv) (hidle : b.phase ≠ .idle) :
    (b.tick free).stepsLeft + 1 = b.stepsLeft := by
  unfold Block.tick
  cases hp : b.phase <;> dsimp only
  case idle => exact absurd hp hidle
  case mmFinal => exact mmFinal_stepsLeft free hp
  case mmIter =>
    simp only [Block.EngineInv, hp] at h
    obtain ⟨-, ⟨hM, hm, -⟩, hi, -⟩ := h
    exact mmIter_stepsLeft hp hm hi
  all_goals simp only [Block.stepsLeft.eq_def b, hp]
  case check => rw [check_eq_param hc]; rfl
  case param | reduce => rfl
  all_goals exact exMonMul_stepsLeft ..

/-- The engine is busy exactly when micro-steps are left. -/
theorem Block.Inv.busy_iff_stepsLeft (h : b.Inv) : b.busy = true ↔ b.stepsLeft ≠ 0 := by
  refine ⟨fun hb => (stepsLeft_pos (h.phase_ne_idle hb)).ne', fun hne => ?_⟩
  by_contra hb
  exact hne (stepsLeft_idle (h.status.phase_idle.2 (by simpa using hb)))

/-- A MODEXP with a valid modulus has made k of its micro-steps after k micro-steps. -/
theorem engineTicks_stepsLeft (hi : s.toBlock.Inv) (hc : s.toBlock.InModexp) {k : Nat}
    (hk : k ≤ s.toBlock.stepsLeft) : (engineTicks k s).toBlock.stepsLeft + k = s.toBlock.stepsLeft := by
  induction k with
  | zero => rfl
  | succ k ih =>
    have ih := ih (Nat.le_of_succ_le hk)
    have hik := engineTicks_inv k hi
    have hb : (engineTicks k s).busy = true := hik.busy_iff_stepsLeft.2 (by omega)
    have hck : (engineTicks k s).toBlock.InModexp := by
      rwa [Block.InModexp, (engineTicks_sameOperands k s).latch]
    rw [engineTicks_succ, engineTick_toBlock hb]
    have hstep := Block.tick_stepsLeft (Config.freeWord Config.W (engineTicks k s).draws) hck hik.engine
      (hik.phase_ne_idle hb)
    omega

end StepCount

/-! ### The obligations on the engine and on the invariant -/

/-- Settles O25: a micro-step that ends the command takes the free value of its own draw. -/
theorem engineRefinesTheReference : Obligations.EngineRefinesTheReference := by
  intro s hi hb
  have hframe : SameButCompletion s (engineTick s) := engineTicks_sameButCompletion 1 s
  have h := Block.tick_refines (Config.freeWord Config.W s.draws) hi hb
  rw [← engineTick_toBlock hb] at h
  rcases h with hgo | ⟨z, hz, hend⟩ | ⟨e, he, hend⟩
  · exact .inl { hframe, hgo with }
  · exact .inr (.inl ⟨z, hz, { hframe, hend with }⟩)
  · exact .inr (.inr ⟨e, he, { hframe, hend with }⟩)

/-- Settles O26: neither the invariant nor the refinement asks anything of the width. -/
theorem blockRefinesTheReferenceAtEveryWidth : Obligations.BlockRefinesTheReferenceAtEveryWidth :=
  fun _ _ _ free hi hb => ⟨Block.tick_inv free hi hb, Block.tick_refines free hi hb⟩

/-- Settles O36, by the cases of a step. -/
theorem stepKeepsTheInvariant : Obligations.StepKeepsTheInvariant := fun _ _ hi hs => step_inv hi hs

/-- Settles O35: a clean block shows nothing but reset values, and the invariant says nothing of hidden registers while
the engine is idle. -/
theorem resetMeetsTheInvariant : Obligations.ResetMeetsTheInvariant :=
  ⟨(Block.reset_clean Config.W).inv, fun _ _ _ h => h.inv⟩

/-- Settles O28: every micro-step brings the command closer to its end. -/
theorem everyCommandTerminates : Obligations.EveryCommandTerminates := by
  intro s hi hb
  obtain ⟨n, hn⟩ := exists_engineTicks_idle s hi
  exact ⟨n, hn, engineTicks_done hb hn⟩

/-- Settles O29: the accepted command has the stated number of micro-steps left, and each takes one off. -/
theorem modexpMicroStepCount : Obligations.ModexpMicroStepCount := by
  intro s _ hM
  have hi := accepted_inv 0b10 s
  have hc : (s.accepted 0b10).toBlock.InModexp :=
    ⟨accepted_command (i := .modexp) (by decide) s, (Latch.validModulus_iff _).2 hM⟩
  have hleft : (s.accepted 0b10).toBlock.stepsLeft = 3 + modExpCalls s.opb.toNat * (bitlen s.mod.toNat + 2) := by
    rw [modExpCalls_eq_loopCalls, Nat.add_comm]
    rfl
  rw [← hleft]
  refine ⟨fun k hk => (engineTicks_inv k hi).busy_iff_stepsLeft.2 ?_, ?_⟩
  · have := engineTicks_stepsLeft hi hc hk.le
    omega
  · have := engineTicks_stepsLeft hi hc le_rfl
    have hidle := (engineTicks_inv (s.accepted 0b10).toBlock.stepsLeft hi).busy_iff_stepsLeft.not.2 (by omega)
    simpa using hidle

end Sys2Proof.Machine

/-! PROOFS. What a success says of the latched command, the conversions before the loop, the `done` output, and the
obligations on results. -/

namespace Sys2Proof.Machine

/-! ### What a success says of the latched command -/

section Successes

variable {W X Y M m base v : Nat} {L : Latch W}

theorem Latch.op_eq_opOf (L : Latch W) : L.op = opOf L.command := (opOf_commandOfOp L.op).symm

/-- The pseudocode succeeds only for a MODEXP or a MONMUL that passes its checks (60_exceptions.md R152 to R155). -/
theorem Latch.of_completion_eq_ok {free z : BitVec W} (h : L.completion free = .ok z) :
    L.validModulus = true ∧
      ((L.command = .modexp ∧ z = BitVec.ofNat W (modExp L.A.toNat L.B.toNat L.M.toNat)) ∨
        (L.command = .monmul ∧ L.validBitwidth = true ∧
          (L.operandsInRange = true → z = BitVec.ofNat W (monMul L.A.toNat L.B.toNat L.M.toNat L.m.toNat)))) := by
  cases hc : L.command with
  | monmul =>
    cases hv : L.validModulus with
    | false => cases (completion_invalidModulus free (.inl hc) hv).symm.trans h
    | true =>
      cases hm : L.validBitwidth with
      | false => cases (completion_invalidBitwidth free hc hv hm).symm.trans h
      | true =>
        rw [completion_monmul_ok free hc hv hm] at h
        injection h with h
        exact ⟨rfl, .inr ⟨rfl, rfl, fun hr => by rw [← h, if_pos hr]⟩⟩
  | modexp =>
    cases hv : L.validModulus with
    | false => cases (completion_invalidModulus free (.inr hc) hv).symm.trans h
    | true =>
      rw [completion_modexp_ok free hc hv] at h
      injection h with h
      exact ⟨rfl, .inl ⟨rfl, h.symm⟩⟩
  | reservedOp00 => cases (completion_reserved free (.inl hc)).symm.trans h
  | reservedOp11 => cases (completion_reserved free (.inr hc)).symm.trans h
  | nocmd => exact absurd hc (commandOfOp_ne_nocmd _)

/-- A residue of a W-bit modulus is a W-bit value. -/
theorem toNat_ofNat_of_lt_modulus {M : BitVec W} (h : v < M.toNat) : (BitVec.ofNat W v).toNat = v := by
  have hM := M.isLt
  rw [BitVec.toNat_ofNat, Nat.mod_eq_of_lt (by omega)]

/-- The word of the Montgomery product is the Z of the contract (40_montgomery_multiply.md R94). -/
theorem ContractRegion.ofNat_monMul {M : BitVec W} (h : ContractRegion X Y M.toNat m) :
    (BitVec.ofNat W (monMul X Y M.toNat m)).toNat < M.toNat ∧
      (BitVec.ofNat W (monMul X Y M.toNat m)).toNat * 2 ^ m ≡ X * Y [MOD M.toNat] := by
  obtain ⟨hlt, hmod⟩ := h.eq_monMul_iff.1 rfl
  rw [toNat_ofNat_of_lt_modulus hlt, mul_comm]
  exact ⟨hlt, hmod⟩

theorem ofNat_modExp {M : BitVec W} (hM : ValidModulus M.toNat) (base exponent : Nat) :
    (BitVec.ofNat W (modExp base exponent M.toNat)).toNat = base ^ exponent % M.toNat := by
  rw [modExp_eq_pow_mod hM]
  exact toNat_ofNat_of_lt_modulus (Nat.mod_lt _ (Nat.zero_lt_of_lt hM.2))

/-- A valid modulus is at least 3, so operands below 2^m are in the contract region. -/
theorem ValidModulus.contractRegion (hM : ValidModulus M) (hX : X < 2 ^ bitlen M) (hY : Y < 2 ^ bitlen M) :
    ContractRegion X Y M (bitlen M) := by
  obtain ⟨hodd, h1⟩ := hM
  exact ⟨hodd, by omega, rfl, hX, hY⟩

/-- A product by RR does not tell a base below 2^m from its residue (41_modular_exponentiation.md R123). -/
theorem monMul_mod_radixSquare (hM : ValidModulus M) (hbase : base < 2 ^ bitlen M) :
    monMul base (radixSquare M) M (bitlen M) = monMul (base % M) (radixSquare M) M (bitlen M) := by
  have hpos : 0 < M := Nat.zero_lt_of_lt hM.2
  have hRR := radixSquare_lt hpos
  obtain ⟨hlt, hmod⟩ := (hM.contractRegion hbase (hRR.trans (lt_two_pow_bitlen M))).eq_monMul_iff.1 rfl
  exact (contractRegion_of_lt hM (Nat.mod_lt base hpos) hRR).eq_monMul_iff.2
    ⟨hlt, hmod.trans ((Nat.mod_modEq base M).symm.mul_right _)⟩

end Successes

/-- Bit 1 of the STATUS read value is DONE (10_state.md R27). -/
theorem Block.getLsbD_statusWord_one {W : Nat} (hW : 2 ≤ W) (b : Block W) : b.statusWord.getLsbD 1 = b.done := by
  have field : ∀ (o : Bool) (e : BitVec 3) (d u : Bool),
      (BitVec.ofBool o ++ e ++ BitVec.ofBool d ++ BitVec.ofBool u).getLsbD 1 = d := by decide
  rw [Block.statusWord, BitVec.getLsbD_setWidth, field, decide_eq_true (show 1 < W from hW), Bool.true_and]

/-! ### The obligations on results -/

/-- Settles O16: the command ends with the word of the product, which is the Z of the contract. -/
theorem monmulCompletesWithTheMontgomeryProduct : Obligations.MonmulCompletesWithTheMontgomeryProduct :=
  fun _ hb h => ⟨exec_idle (i := .monmul) (by decide) hb, _, monmul_completesWith_monMul h, h.ofNat_monMul⟩

/-- Settles O38: RESULT shows the completion of the latch, which is a success. -/
theorem doneWithoutErrorMeansRightResult : Obligations.DoneWithoutErrorMeansRightResult := by
  intro s hs hd herr
  obtain ⟨free, hshown⟩ := hs.inv.shown hd
  obtain ⟨hv, hcommand⟩ := Latch.of_completion_eq_ok (Completion.eq_ok_of_shownBy hshown herr)
  have hM := (Latch.validModulus_iff _).1 hv
  refine ⟨hM, ?_⟩
  rcases hcommand with ⟨hc, hz⟩ | ⟨hc, hw, hz⟩
  · have hop : s.latch.op = 0b10 := by
      rw [Latch.op_eq_opOf, hc]
      rfl
    refine .inl ⟨hop, ?_⟩
    rw [hz, ofNat_modExp hM]
  · have hop : s.latch.op = 0b01 := by
      rw [Latch.op_eq_opOf, hc]
      rfl
    have hm : s.latch.m.toNat = bitlen s.latch.M.toNat := of_decide_eq_true hw
    refine .inr ⟨hop, hm, fun hX hY => ?_⟩
    rw [hz (Bool.and_eq_true_iff.2 ⟨decide_eq_true hX, decide_eq_true hY⟩)]
    rw [hm] at hX hY ⊢
    exact (hM.contractRegion hX hY).ofNat_monMul

/-- Settles O50: converting in multiplies by Rm, whether or not the operand was reduced first. -/
theorem baseReductionAndMontgomeryOne : Obligations.BaseReductionAndMontgomeryOne := by
  intro M base hM
  have hpos : 0 < M := Nat.zero_lt_of_lt hM.2
  have hlt : base % M < M := Nat.mod_lt base hpos
  refine ⟨hlt, ?_, monMul_mod_radixSquare hM, ?_⟩
  · rw [monMul_radixSquare hM hlt, Nat.mod_mul_mod]
  · rw [monMul_radixSquare hM hM.2, one_mul, Nat.mod_eq_of_lt (radixResidue_lt hpos)]

/-- Settles O15: both are the field DONE. -/
theorem doneSignalIsStatusDone : Obligations.DoneSignalIsStatusDone :=
  fun _ hW b => (b.getLsbD_statusWord_one (by omega)).symm

end Sys2Proof.Machine

/-! PROOFS. What a step does by the turn it takes, the wait that nothing ends, the end of a run, and the obligations on
them. -/

namespace Sys2Proof.Machine

/-! ### A step by its turn -/

section Turns

variable {s t : State} {op : HostOp Config.W} {prog : List (HostOp Config.W)} {v : Word}

theorem hostTurn_cons (hp : s.prog = op :: prog) : hostTurn s = hostStep op { s with prog := prog } := by
  simp only [hostTurn, hp]

theorem hostTurn_nil (hp : s.prog = []) : hostTurn s = .next s := by simp only [hostTurn, hp]

theorem step_turnsUsedUp_busy (hs : s.sched = []) (hb : s.busy = true) : step s = .next (engineTick s) := by
  simp only [step, hs, hb, if_true]

theorem step_turnsUsedUp_idle (hs : s.sched = []) (hb : s.busy = false) : step s = hostTurn s := by
  simp only [step, hs, hb, Bool.false_eq_true, if_false]

theorem hostStep_next (op : HostOp Config.W) (s : State) : ∃ t, hostStep op s = .next t := by
  cases op with
  | wr i v => exact memWrite_next i v s
  | rd i => exact ⟨_, rfl⟩
  | wait => exact ⟨_, rfl⟩

theorem hostTurn_next (s : State) : ∃ t, hostTurn s = .next t := by
  cases hp : s.prog with
  | nil => exact ⟨s, hostTurn_nil hp⟩
  | cons op prog =>
    rw [hostTurn_cons hp]
    exact hostStep_next op _

/-- A number that decodes as a table word is decoded as the word written to CTRL. -/
theorem decode_of_decodeTableWord {nbits w : Nat} {i : Instr} (h : decodeTableWord nbits w = some i) :
    decode (BitVec.ofNat Config.W (w % 2 ^ nbits)) = i := by
  unfold decodeTableWord decodeNat at h
  split at h
  · rename_i hok
    split at hok
    · cases hok
      exact Option.some.inj h
    · cases hok
  · cases h

/-- Without a reset, a step from an idle engine that is no host step leaves the block as it is. -/
theorem step_toBlock_of_no_hostOp (hb : s.busy = false) (hn : s.nextHostOp = none) (hr : ¬ s.ResetsNext)
    (hs : step s = .next t) : t.toBlock = s.toBlock := by
  cases step_cases hs with
  | reset h _ => exact absurd h hr
  | engine k sched _ ht => rw [ht, engineTicks_idle (s := { s with sched := sched }) hb]
  | host op _ h _ _ => cases hn.symm.trans h
  | none _ _ _ ht => exact ht

/-- A host step after which DONE is 1 is no accept, so RESULT, ERR and the latch stay (20_memory.md R59). -/
theorem HostCase.completed_kept {b t : Block Config.W} (h : HostCase op b t) (hb : b.busy = false)
    (hd : t.done = true) : t.result = b.result ∧ t.err = b.err ∧ t.latch = b.latch := by
  cases h with
  | same ht _ _ => exact ht ▸ ⟨rfl, rfl, rfl⟩
  | slot i v _ _ ht =>
    obtain ⟨hresult, -, -, herr, -, hlatch, -⟩ := Block.writeSlot_frame (Slot.ofIndex i) v b
    exact ht ▸ ⟨hresult, herr, hlatch⟩
  | start v _ _ ht =>
    rw [ht, Block.start_idle _ hb] at hd
    cases hd

end Turns

/-! ### A wait with the engine idle and DONE = 0 -/

section Waiting

variable {s t u : State} {prog : List (HostOp Config.W)}

theorem hostPoll_eq (s : State) :
    hostPoll s = { hostRead 1 s with prog := if s.done then s.prog else .wait :: s.prog } := by
  unfold hostPoll
  rw [statusWord_done]
  cases s.done <;> rfl

/-- A poll that reads DONE = 0 leaves the wait in the program. -/
theorem hostTurn_wait (hp : s.prog = .wait :: prog) (hd : s.done = false) : hostTurn s = .next (hostRead 1 s) := by
  rw [hostTurn_cons hp]
  change Host.Outcome.next (hostPoll _) = _
  rw [hostPoll_eq]
  simp only [hd, Bool.false_eq_true, if_false, ← hp]
  rfl

/-- t is s but for the turns in store and for what the host has read. -/
structure Waits (s t : State) : Prop where
  block : t.toBlock = s.toBlock
  prog  : t.prog = s.prog
  sched : t.sched ⊆ s.sched

/-- No step without a reset ends the wait (93_implementation_defined.md U14). -/
theorem step_waits (hp : s.prog = .wait :: prog) (hb : s.busy = false) (hd : s.done = false) (hr : ¬ s.ResetsNext) :
    ∃ t, step s = .next t ∧ Waits s t := by
  cases hs : s.sched with
  | nil => exact ⟨_, (step_turnsUsedUp_idle hs hb).trans (hostTurn_wait hp hd), rfl, rfl, fun _ h => h⟩
  | cons turn rest =>
    have hrest : rest ⊆ s.sched := hs ▸ List.subset_cons_self turn rest
    cases turn with
    | host =>
      have hstep : step s = hostTurn { s with sched := rest } := by simp only [step, hs]
      exact ⟨_, hstep.trans (hostTurn_wait hp hd), rfl, rfl, hrest⟩
    | engine k =>
      have hidle : engineTicks k { s with sched := rest } = { s with sched := rest } :=
        engineTicks_idle (s := { s with sched := rest }) hb k
      have hstep : step s = .next { s with sched := rest } := by simp only [step, hs, hidle]
      exact ⟨_, hstep, rfl, rfl, hrest⟩
    | reset => exact absurd ⟨rest, hs⟩ hr

theorem not_resetsNext_of_not_mem (h : .reset ∉ s.sched) : ¬ s.ResetsNext := by
  rintro ⟨rest, hs⟩
  exact h (hs ▸ List.mem_cons_self)

/-- A run of a machine begins with its first step. -/
theorem run_succ_of_step {C : Host.Core} {s t : C.State} (h : C.step s = .next t) (n : Nat) :
    C.run (n + 1) s = C.run n t := by
  rw [Host.Core.run, h]

/-- No number of steps ends the wait, with no reset in store. -/
theorem run_waits (n : Nat) (hp : s.prog = .wait :: prog) (hn : .reset ∉ s.sched) (hb : s.busy = false)
    (hd : s.done = false) :
    ∃ t : State, Host.Core.run Sys2Proof.core n s = .next t ∧ t.prog = .wait :: prog ∧ t.toBlock = s.toBlock := by
  induction n generalizing s with
  | zero => exact ⟨s, rfl, hp, rfl⟩
  | succ n ih =>
    obtain ⟨u, hstep, hblock, hprog, hsched⟩ := step_waits hp hb hd (not_resetsNext_of_not_mem hn)
    obtain ⟨t, hrun, htprog, htblock⟩ := ih (hprog.trans hp) (fun h => hn (hsched h))
      (by rw [hblock]; exact hb) (by rw [hblock]; exact hd)
    exact ⟨t, (run_succ_of_step (C := Sys2Proof.core) hstep n).trans hrun, htprog, htblock.trans hblock⟩

theorem Runs.waits (h : Runs s t) (hp : s.prog = .wait :: prog) (hb : s.busy = false) (hd : s.done = false) :
    t.prog = .wait :: prog ∧ t.toBlock = s.toBlock := by
  induction h with
  | refl => exact ⟨hp, rfl⟩
  | snoc _ hr hs ih =>
    obtain ⟨hprog, hblock⟩ := ih
    obtain ⟨u, hstep, hw⟩ := step_waits hprog (by rw [hblock]; exact hb) (by rw [hblock]; exact hd) hr
    cases hs.symm.trans hstep
    exact ⟨hw.prog.trans hprog, hw.block.trans hblock⟩

end Waiting

/-! ### The end of a host program -/

section ProgramEnd

variable {s t t' u u' v : State} {p : State → Prop}

theorem State.LastHostStep.not_resetsNext (h : u.LastHostStep t) : ¬ u.ResetsNext :=
  fun hr => h.1 (nextHostOp_of_resetsNext hr)

theorem State.LastHostStep.prog_ne_nil (h : u.LastHostStep t) : u.prog ≠ [] :=
  fun hp => h.1 (nextHostOp_of_prog_nil hp)

theorem RunsWhile.prog_nil (h : RunsWhile p s t) (hp : s.prog = []) : t.prog = [] := by
  induction h with
  | refl => exact hp
  | snoc _ _ hs ih => exact step_prog_nil ih hs

/-- With the program used up and the engine idle, nothing but a reset changes the block. -/
theorem Runs.toBlock_eq (h : Runs s t) (hp : s.prog = []) (hb : s.busy = false) : t.toBlock = s.toBlock := by
  induction h with
  | refl => rfl
  | snoc hrun hr hs ih =>
    have hop := nextHostOp_of_prog_nil (hrun.prog_nil hp)
    exact (step_toBlock_of_no_hostOp (by rw [ih]; exact hb) hop hr hs).trans ih

/-- A run from the last host step stays there or has the program used up. -/
theorem State.LastHostStep.runs (h : u.LastHostStep t) (hr : Runs u v) : v = u ∨ v.prog = [] := by
  rcases hr.head with rfl | ⟨w, -, hs, hw⟩
  · exact .inl rfl
  · obtain ⟨-, ht, hnil⟩ := h
    rw [step_unique ht hs] at hw
    exact .inr (hw.prog_nil hnil)

/-- A program has one last host step. -/
theorem State.LastHostStep.unique (hr : Runs s u) (h : u.LastHostStep t) (hr' : Runs s u') (h' : u'.LastHostStep t') :
    t' = t := by
  have heq : u' = u := by
    rcases hr.comparable hr' with hrun | hrun
    · exact (h.runs hrun).resolve_right h'.prog_ne_nil
    · exact ((h'.runs hrun).resolve_right h.prog_ne_nil).symm
  subst heq
  exact step_unique h.2.1 h'.2.1

/-- A reset before the program is used up comes before its last host step, and the run takes none. -/
theorem State.not_ended_of_resetsNext (hr : Runs s u) (hp : u.prog ≠ []) (hreset : u.ResetsNext) :
    ¬ ∃ t, s.Ended t := by
  rintro ⟨t, v, hv, hlast, -⟩
  have heq : u = v := by
    rcases hr.comparable hv with hrun | hrun
    · exact (hrun.blocked fun h => h hreset).symm
    · exact (hlast.runs hrun).resolve_right hp
  exact hlast.not_resetsNext (heq ▸ hreset)

end ProgramEnd

/-! ### The end of a command run -/

section CommandEnd

variable {s a t u : State}

/-- A command run begins with an accept and ends with a completion. -/
theorem CommandRun.completed (h : CommandRun s t) : t.busy = false ∧ t.done = true := by
  obtain ⟨hb, hstart, a, hs, hrun, hidle⟩ := h
  have ha : a.busy = true := by
    obtain ⟨op, ha⟩ := step_startsNext hstart hs
    rw [ha, Block.start_idle op hb]
    rfl
  refine ⟨hidle, ?_⟩
  cases hrun with
  | refl => exact absurd (ha.symm.trans hidle) (by decide)
  | snoc _ hp hlast =>
    obtain ⟨hbusy, hr⟩ := hp
    rcases step_completes hlast hr hbusy hidle with ⟨_, hend⟩ | ⟨_, hend⟩ <;> exact hend.done

/-- A reset while the command runs comes before its completion, and the run takes none. -/
theorem not_commandRun_of_resetsNext (hs : step s = .next a)
    (hr : RunsWhile (fun v => v.busy = true ∧ ¬ v.ResetsNext) a u) (hb : u.busy = true) (hreset : u.ResetsNext) :
    ¬ ∃ t, CommandRun s t := by
  rintro ⟨t, -, -, a', hs', hrun, hidle⟩
  rw [step_unique hs hs'] at hrun
  have heq : t = u := by
    rcases hr.comparable hrun with h | h
    · exact h.blocked fun hp => hp.2 hreset
    · exact (h.blocked fun hp => absurd (hp.1.symm.trans hidle) (by decide)).symm
  exact absurd (hb.symm.trans (heq ▸ hidle)) (by decide)

end CommandEnd

/-! ### The obligations on steps and runs -/

/-- Settles O53: the step is a function, so two runs from one state lie on one path, and nothing but a reset leads
from a state where the program is used up and the engine is idle to another block. -/
theorem endOfARun : Obligations.EndOfARun := by
  refine ⟨fun s t _ h => h.completed, fun s a u _ hs hr hb => not_commandRun_of_resetsNext hs hr hb,
    ?_, ?_, ?_, fun s u hr hp => State.not_ended_of_resetsNext hr hp, ?_⟩
  · rintro s t t' ⟨u, hr, hlast, -⟩ ⟨u', hr', hlast', -⟩
    exact hlast.unique hr hr' hlast'
  · rintro s t u ⟨v, -, ⟨-, -, hnil⟩, hidle⟩ hrun
    exact hrun.toBlock_eq hnil hidle
  · rintro s u t hr hlast hb ⟨t', u', hr', hlast', hidle⟩
    rw [hlast.unique hr hr' hlast'] at hidle
    exact absurd (hb.symm.trans hidle) (by decide)
  · rintro s prog hp hb hd ⟨t, u, hr, hlast, -⟩
    obtain ⟨hprog, hblock⟩ := Runs.waits hr hp hb hd
    obtain ⟨t', hstep, hw⟩ := step_waits hprog (by rw [hblock]; exact hb) (by rw [hblock]; exact hd)
      hlast.not_resetsNext
    obtain ⟨-, ht, hnil⟩ := hlast
    rw [step_unique hstep ht] at hnil
    exact absurd (hw.prog.symm.trans hnil) (by rw [hprog]; exact List.cons_ne_nil _ _)

/-- Settles O12: a poll puts the wait back exactly when it reads DONE = 0. -/
theorem waitPollsUntilDone : Obligations.WaitPollsUntilDone := by
  refine ⟨fun s prog sched hp hs => ?_, fun n s prog => run_waits n⟩
  rw [step_host hp hs]
  exact congrArg Host.Outcome.next (hostPoll_eq _)

/-- Settles O34: from an idle engine only an accept writes ERR or the latch, and it clears DONE. -/
theorem completedResultIsStable : Obligations.CompletedResultIsStable := by
  intro s t hi hs hr hd hd'
  have hb := hi.busy_of_done hd
  cases hop : s.nextHostOp with
  | none =>
    rw [step_toBlock_of_no_hostOp hb hop hr hs]
    exact ⟨rfl, rfl, rfl⟩
  | some op =>
    obtain ⟨s', hblock, hstep⟩ := step_nextHostOp hop hs
    have h := hostStep_cases hstep
    rw [hblock] at h
    exact h.completed_kept hb hd'

/-- Settles O5: the host's turn takes the operation off and runs it. -/
theorem stepRunsDecodedInstruction : Obligations.StepRunsDecodedInstruction := by
  refine ⟨fun s v prog sched hp hs => step_host hp hs, fun s v prog hp hs hb => ?_, fun s nbits w i hd => ?_⟩
  · rw [step_turnsUsedUp_idle hs hb, hostTurn_cons hp]
    rfl
  · rw [← decode_of_decodeTableWord hd]
    exact step_host (s := s.withFetchWord nbits w) rfl rfl

/-- Settles O6, by the next turn. -/
theorem stepFollowsTheTurns : Obligations.StepFollowsTheTurns := by
  refine ⟨fun s k sched hs => ?_, fun s sched hs hp => ?_, fun s => step_turnsUsedUp_busy, fun s hs hb hp => ?_,
    fun s k hb => engineTicks_idle hb k⟩
  · simp only [step, hs]
  · have hstep : step s = hostTurn { s with sched := sched } := by simp only [step, hs]
    exact hstep.trans (hostTurn_nil hp)
  · exact (step_turnsUsedUp_idle hs hb).trans (hostTurn_nil hp)

/-- Settles O11: every turn answers a next state, the host's because every host access does. -/
theorem everyStepAnswersNext : Obligations.EveryStepAnswersNext := by
  intro s
  unfold SafeStep step
  split
  · exact hostTurn_next _
  · exact ⟨_, rfl⟩
  · exact ⟨_, rfl⟩
  · split
    · exact ⟨_, rfl⟩
    · exact hostTurn_next s

/-- Settles O23: a CTRL value without START decodes to no command. -/
theorem nocmdHasNoEffect : Obligations.NocmdHasNoEffect :=
  ⟨fun _ => rfl, fun _ _ _ _ hp hs hv => (step_host hp hs).trans (memWrite_ctrl_nostart hv _)⟩

end Sys2Proof.Machine
